-- ==== Sys2Proof/Word.lean ====
section
/-!
DEFINITION. The word types of the block (spec/00_scope.md R7, R9; spec/30_encoding.md R70, R75, R77).
Every value is unsigned (R8); bit 0 is the least significant bit (R9).

The timestamp width `W` is a parameter of the block (R7, decision D2, I5), so a word whose width depends on
`W` is held as the number it stands for, a Nat: a `W`-bit timestamp in milliseconds (R189), the command word
`CW = {cmd_ts, cmd_op}` of `W + 3` bits (R70), the query word `QW = {q_now, q_op}` of `W + 1` bits (R75). The
operations that need the width take `W` (log 2).
-/

namespace Sys2Proof

/-- The default of the parameter `W`, the timestamp width in bits (R7, decision D2). -/
def defaultW : Nat := 32

/-- An 8-bit decoded-time register (R26; `FIELD_BITS` of R7). -/
abbrev Byte := BitVec 8

/-- The 64-bit frame word (R21; `FRAME_BITS` of R7). Slot `p` is bit `p` (R51). -/
abbrev FrameWord := BitVec 64

/-- A frame position, 6 bits (R22). -/
abbrev Position := BitVec 6

/-- The semantic-event code `SEV = {kind[1:0], v}`, 3 bits (R77). -/
abbrev SevCode := BitVec 3

end Sys2Proof
end

