-- ==== Sys2Proof/Syntax.lean ====
section
/-!
DEFINITION. The syntax: one constructor per row of spec/opcode_table.json. The reserved rows are
constructors too, so that decoding is total and a reserved word is named, not mapped to a neighbour.
-/

namespace Sys2Proof

/-- One constructor per row of the opcode table. An operand that a rule ignores is kept, so that no bit
of a word is lost in decoding. -/
inductive Instr where
  /-- Row `EDGE`: `cmd_op = 0b00L`, a raw edge event with level `L` at `ts` (R71, R100). -/
  | edge (l : Bool) (ts : Nat)
  /-- Row `TICK`: `cmd_op = 0b010`; `cmd_ts` is ignored (R71, R74, R162). -/
  | tick (ts : Nat)
  /-- Row `RESERVED_011`: `cmd_op = 0b011` names no command (R73). -/
  | reserved011 (ts : Nat)
  /-- Row `RESERVED_1XX`: `cmd_op = 0b1xx` names no command (R73). -/
  | reserved1xx (opLow : BitVec 2) (ts : Nat)
  /-- Row `GET_TIME`: `q_op = 0`; `q_now` is ignored (R75, R160). -/
  | getTime (now : Nat)
  /-- Row `SYNCED`: `q_op = 1` (R75, R161). -/
  | synced (now : Nat)
  /-- Row `SEV_SECOND`: `SEV = 000` (R77, R104); `ts` is the step's timestamp (log 8). -/
  | sevSecond (ts : Nat)
  /-- Row `SEV_APPEND`: `SEV = 01v` (R77, R120); `ts` is the step's timestamp (log 8). -/
  | sevAppend (v : Bool) (ts : Nat)
  /-- Row `SEV_GLITCH`: `SEV = 100` (R77, R125); the step's timestamp is not read. -/
  | sevGlitch (ts : Nat)
  /-- Row `SEV_FINALIZE`: `SEV = 110` (R77, R140); `now` is the step's timestamp (log 8). -/
  | sevFinalize (now : Nat)
  /-- Row `SEV_RESERVED_001`: never produced (R78). -/
  | sevReserved001 (ts : Nat)
  /-- Row `SEV_RESERVED_101`: never produced (R78). -/
  | sevReserved101 (ts : Nat)
  /-- Row `SEV_RESERVED_111`: never produced (R78). -/
  | sevReserved111 (ts : Nat)
deriving DecidableEq, Repr

end Sys2Proof
end

