-- ==== Sys2Proof/Decode.lean ====
section
/-!
DEFINITION. Decoding (spec/30_encoding.md R70 to R78, R88), total on every word, and after it the
encoder. A reserved code decodes to the constructor of its own row. Every decoder takes the timestamp width `W`
(R7) and reads the `W` bits of the timestamp field.

The opcode table's rows live in three encoding spaces that overlap as numbers: the command word CW, the
query word QW and the semantic-event code SEV. The model's input word `{port, word}` tells them apart:
port 0 is the command port, 1 the query port, 2 a semantic event with its step's timestamp,
3 nothing (DESIGN CHOICE, log 9).
-/

namespace Sys2Proof

/-- `v[lo+n-1:lo]`, "the unsigned value of bits `hi` down to `lo` of `v`" (R9). -/
def slice (v lo n : Nat) : Nat := v / 2 ^ lo % 2 ^ n

/-- `cmd_op = CW[2:0]` (R70). -/
def cmdOp (cw : Nat) : BitVec 3 := BitVec.ofNat 3 (slice cw 0 3)

/-- `cmd_ts = CW[W+2:3]` (R70). -/
def cmdTs (W : Nat) (cw : Nat) : Nat := slice cw 3 W

/-- `q_op = QW[0]` (R75). -/
def queryOp (qw : Nat) : BitVec 1 := BitVec.ofNat 1 (slice qw 0 1)

/-- `q_now = QW[W:1]` (R75). -/
def queryNow (W : Nat) (qw : Nat) : Nat := slice qw 1 W

/-- The command opcode map of R71. "A decoder reads `cmd_op` alone to select the command" (R88). -/
def decodeCommand (W : Nat) (cw : Nat) : Instr :=
  let op := cmdOp cw
  let ts := cmdTs W cw
  if op = 0b000#3 then .edge false ts
  else if op = 0b001#3 then .edge true ts
  else if op = 0b010#3 then .tick ts
  else if op = 0b011#3 then .reserved011 ts
  else .reserved1xx (op.extractLsb' 0 2) ts

/-- The query port of R75: `q_op = 0` is GET_TIME, `q_op = 1` is SYNCED. -/
def decodeQuery (W : Nat) (qw : Nat) : Instr :=
  if queryOp qw = 0#1 then .getTime (queryNow W qw) else .synced (queryNow W qw)

/-- The semantic-event code of R77 and the codes of R78, with the step's timestamp. -/
def decodeSev (sev : SevCode) (ts : Nat) : Instr :=
  if sev = 0b000#3 then .sevSecond ts
  else if sev = 0b001#3 then .sevReserved001 ts
  else if sev = 0b010#3 then .sevAppend false ts
  else if sev = 0b011#3 then .sevAppend true ts
  else if sev = 0b100#3 then .sevGlitch ts
  else if sev = 0b101#3 then .sevReserved101 ts
  else if sev = 0b110#3 then .sevFinalize ts
  else .sevReserved111 ts

/-- A presented semantic event `{ts, SEV}` (log 8). -/
def decodeEvent (W : Nat) (ew : Nat) : Instr := decodeSev (BitVec.ofNat 3 (slice ew 0 3)) (slice ew 3 W)

/-- The port field of an input word. -/
def inputPort (W : Nat) (iw : Nat) : BitVec 2 := BitVec.ofNat 2 (slice iw (W + 3) 2)

/-- The word below the port field: a command word, or a presented semantic event. -/
def inputBody (W : Nat) (iw : Nat) : Nat := slice iw 0 (W + 3)

/-- The query word of an input word; bits `W + 2` and `W + 1` are no signal of the query port. -/
def inputQuery (W : Nat) (iw : Nat) : Nat := slice iw 0 (W + 1)

/-- The instruction an input word holds; `none` for port 3, which presents nothing. -/
def decodeInputWord (W : Nat) (iw : Nat) : Option Instr :=
  if inputPort W iw = 0#2 then some (decodeCommand W (inputBody W iw))
  else if inputPort W iw = 1#2 then some (decodeQuery W (inputQuery W iw))
  else if inputPort W iw = 2#2 then some (decodeEvent W (inputBody W iw))
  else none

/-- The input word of a number of `nbits` bits: every bit at or above `nbits` is 0. -/
def tableInputWord (nbits w : Nat) : Nat := slice w 0 nbits

/-- The instruction the decoder reads from a table word. The table is written for `W = 32`. A number shorter than
an input word has port 0, so it is read on the command port (log 9). -/
def decodeTableWord (nbits w : Nat) : Option Instr := decodeInputWord defaultW (tableInputWord nbits w)

/-- `CW = {cmd_ts, cmd_op}`: "its value is `cmd_ts * 8 + cmd_op`" (R70). -/
def commandWord (ts : Nat) (op : BitVec 3) : Nat := ts * 8 + op.toNat

/-- `QW = {q_now, q_op}` (R75). -/
def queryWord (now : Nat) (op : BitVec 1) : Nat := now * 2 + op.toNat

/-- `{ts, SEV}` (log 8). -/
def eventWord (sev : SevCode) (ts : Nat) : Nat := ts * 8 + sev.toNat

/-- An input word `{port, word}`. -/
def onPort (W : Nat) (port : BitVec 2) (word : Nat) : Nat := port.toNat * 2 ^ (W + 3) + word

/-- The input word of an instruction, from the encodings of R70, R71, R73, R75, R77 and R78. -/
def encode (W : Nat) : Instr → Nat
  | .edge l ts => onPort W 0 (commandWord ts (0b00#2 ++ BitVec.ofBool l))
  | .tick ts => onPort W 0 (commandWord ts 0b010#3)
  | .reserved011 ts => onPort W 0 (commandWord ts 0b011#3)
  | .reserved1xx opLow ts => onPort W 0 (commandWord ts (1#1 ++ opLow))
  | .getTime now => onPort W 1 (queryWord now 0#1)
  | .synced now => onPort W 1 (queryWord now 1#1)
  | .sevSecond ts => onPort W 2 (eventWord 0b000#3 ts)
  | .sevAppend v ts => onPort W 2 (eventWord (0b01#2 ++ BitVec.ofBool v) ts)
  | .sevGlitch ts => onPort W 2 (eventWord 0b100#3 ts)
  | .sevFinalize now => onPort W 2 (eventWord 0b110#3 now)
  | .sevReserved001 ts => onPort W 2 (eventWord 0b001#3 ts)
  | .sevReserved101 ts => onPort W 2 (eventWord 0b101#3 ts)
  | .sevReserved111 ts => onPort W 2 (eventWord 0b111#3 ts)

end Sys2Proof
end

