-- ==== Sys2Proof/Config.lean ====
section
/-!
DEFINITION. The parameters of spec/00_scope.md R7, the configuration word of spec/10_state.md R28,
and the values the spec leaves open (constants with no body).
-/

namespace Sys2Proof

/-- The timestamp width and the millisecond thresholds of R7, each "a named parameter a model takes as an
argument, defaulting to the source value" (decisions D2, D18; I4, I5). -/
structure Params where
  /-- `W`: the timestamp width in bits; at least 17. -/
  W : Nat := defaultW
  /-- `T_SYNC`: a rising-edge gap strictly greater finalizes. -/
  tSync : Nat := 1200
  /-- `T_GLITCH`: a rising-edge gap strictly less is a glitch. -/
  tGlitch : Nat := 300
  /-- `T_SPLIT`: a pulse strictly shorter is 0, otherwise 1. -/
  tSplit : Nat := 140
  /-- `T_FRESH`: an age less than or equal is fresh. -/
  tFresh : Nat := 120000
deriving DecidableEq, Repr

/-- `SLOTS`, the number of frame slots (R7). -/
def slots : Nat := 60

/-- `REFRESH_POLICY` (R28, R146). -/
inductive RefreshPolicy where
  /-- `ANY_FINALIZE`, encoded 0: every finalize refreshes `LAST_FINALIZE`. -/
  | anyFinalize
  /-- `SUCCESS_ONLY`, encoded 1: only a successful finalize does. -/
  | successOnly
deriving DecidableEq, Repr

/-- `FRAME_WRITE` (R28, R121). -/
inductive FrameWrite where
  /-- `ASSIGN`, encoded 0: the slot takes the appended value. -/
  | assign
  /-- `OR`, encoded 1: the slot becomes 1 if either write was 1. -/
  | or
deriving DecidableEq, Repr

/-- The configuration inputs of R28, with the defaults it gives. -/
structure Cfg where
  invertSignal : Bool := false
  refreshPolicy : RefreshPolicy := .anyFinalize
  frameWrite : FrameWrite := .assign
deriving DecidableEq, Repr

namespace Config

/-- `TICK_FN`, the effect of the external ticker on `SECOND`: an OPEN parameter, a total function on
8-bit values (R7, R162, decision D15). It has no body, so a statement about it holds for every
`TICK_FN` (log 7). -/
opaque tickFn : Byte → Byte

/-- The don't-care values of `obs_raw` and `obs_active` in a step that is no EDGE (R79; treatment
`any value`, I15): a free value for each index (log 6). -/
opaque dontCare : Nat → Bool

end Config

end Sys2Proof
end

