-- ==== Sys2Proof/Machine/State.lean ====
section
/-!
DEFINITION. The state: the seventeen registers of spec/10_state.md R20, the configuration latched at reset
(R28, R200), the parameters of spec/00_scope.md R7, the outputs of the last step (spec/30_encoding.md R75,
R79), and the inputs the environment presents next (R6). All of it is plain data.
-/

namespace Sys2Proof.Machine

/-- `DecodedTime`: the seven 8-bit decoded-time registers (R26), in the record's order (R76). -/
structure DecodedTime where
  second : Byte
  minute : Byte
  hour : Byte
  day : Byte
  weekday : Byte
  month : Byte
  year : Byte
deriving DecidableEq, Repr

/-- "The block's state is exactly the following registers" (R20). -/
structure Regs where
  /-- `FRAME`, 64 bits; slot `p` is bit `p` (R21, R51). -/
  frame : FrameWord
  /-- `POS`, the current write offset into the frame (R22). -/
  pos : Position
  /-- `ACC_MIN`, `ACC_HOUR`, `ACC_DATE`: the live parity accumulators (R23). -/
  accMin : Bool
  accHour : Bool
  accDate : Bool
  /-- `CAP_MIN`, `CAP_HOUR`, `CAP_DATE`: the captured parity values (R24). -/
  capMin : Bool
  capHour : Bool
  capDate : Bool
  /-- `LAST_RISING`, `W` bits: the timestamp of the last rising edge taken as a second or a sync gap (R25). -/
  lastRising : Nat
  /-- `SECOND` to `YEAR` (R26). -/
  time : DecodedTime
  /-- `LAST_FINALIZE`, `W` bits (R27). -/
  lastFinalize : Nat
deriving DecidableEq, Repr

/-- The observer output (R79). `raw` and `active` are don't-care while `valid` is 0. -/
structure Observer where
  valid : Bool
  raw : Bool
  active : Bool
deriving DecidableEq, Repr

/-- What the query port returns (R75): `q_time` for GET_TIME, `q_synced` for SYNCED. -/
inductive Answer where
  | time (qTime : BitVec 56)
  | synced (qSynced : Bool)
deriving DecidableEq, Repr

/-- What the environment presents in one step on the command port, or in its place. -/
inductive Input where
  /-- `cmd_valid = 0` (R72). -/
  | idle
  /-- A command word on the command port (R70). -/
  | command (cw : Nat)
  /-- A semantic event presented below the classifier, with its step's timestamp (R78; log 8). -/
  | event (ew : Nat)
  /-- Reset, "a step of its own, applied by the environment at any step boundary" (R200). -/
  | reset
deriving DecidableEq, Repr

/-- The step boundary a query reads: "either the state before that step or the state after it", "a choice of the
environment" (R57, I13). -/
inductive Boundary where
  | before
  | after
deriving DecidableEq, Repr

/-- A query on the query port (R75), with the boundary that the environment has it read (R57). -/
structure Query where
  word : Nat
  boundary : Boundary := .before
deriving DecidableEq, Repr

/-- One step's input, the configuration inputs as they stand in it (R28, R212), and the queries of the reader agents
in it, "any number of times, with or without a command in the same step" (R56, R163). -/
structure Stimulus where
  cfg : Cfg
  input : Input
  queries : List Query := []
deriving DecidableEq, Repr

/-- The machine. -/
structure State where
  /-- The registers of R20. -/
  regs : Regs
  /-- `CFG`, latched at reset and held for the run (R28, R200). -/
  cfg : Cfg
  /-- The timestamp width and the thresholds of R7; no step writes them. -/
  params : Params
  /-- The observer output as the last step drove it (R79). -/
  obs : Observer
  /-- What the query port returned in the last step, one answer for each query in it, in their order (R75, R163). -/
  answers : List Answer
  /-- The model's own: what the environment presents next, oldest first (log 4). -/
  inputs : List Stimulus
  /-- The model's own: the index of the next don't-care value (log 6). -/
  free : Nat
deriving DecidableEq, Repr

/-- No command and no query raises an exception (R180, R185): nothing of the model raises a fault, so there is
no constructor (log 13). -/
inductive Fault : Type
deriving DecidableEq, Repr

/-- Why the model refuses an input. -/
inductive Refusal where
  /-- Raised by an arm of `exec` that has no meaning yet; safe. No arm raises it now. -/
  | notModelled (mnemonic : String)
  /-- Raised by the meanings of RESERVED_011 and RESERVED_1XX: the environment presented a reserved command
  opcode (R73, R182). Safe: the spec gives it no effect and asks for the refusal. -/
  | reservedCommand (op : BitVec 3)
  /-- Raised by the meanings of SEV_RESERVED_001, _101 and _111: a semantic-event code that cannot occur (R78,
  R182). Safe: the spec gives it no effect and asks for the refusal. -/
  | reservedSev (sev : SevCode)
  /-- Raised by `step`: a configuration input differs from the value latched at reset and the step is no reset
  (R212, I7). Safe: the spec asks for the refusal. -/
  | configurationChanged
deriving DecidableEq, Repr

/-- The decoded time after reset: all 0 (R20, R200). -/
def DecodedTime.zero : DecodedTime :=
  { second := 0, minute := 0, hour := 0, day := 0, weekday := 0, month := 0, year := 0 }

/-- Every register at the reset value R20 lists, "every one 0" (R200). -/
def Regs.reset : Regs :=
  { frame := 0, pos := 0, accMin := false, accHour := false, accDate := false,
    capMin := false, capHour := false, capDate := false,
    lastRising := 0, time := DecodedTime.zero, lastFinalize := 0 }

/-- The machine right after a reset with the default configuration (R28) and the default parameters (R7).
`obs_valid = 0` (R200); `obs_raw`, `obs_active` and `free` are DESIGN CHOICE (log 6). Nothing is
presented yet (log 4, log 10). -/
def State.reset : State :=
  { regs := Regs.reset, cfg := {}, params := {},
    obs := { valid := false, raw := false, active := false }, answers := [], inputs := [], free := 0 }

end Sys2Proof.Machine
end

