-- ==== Sys2Proof/Machine/Ops.lean ====
section
/-!
DEFINITION. The named operations over the registers and the outputs: timestamp subtraction, slot read and
write, field extraction, BCD conversion, and how a step of each kind leaves the outputs; the idle step and
the reset step. The block has no memory (spec/20_memory.md R50) and takes no exception
(spec/60_exceptions.md R180, R185), so there is no memory operation and no exception entry here.
-/

namespace Sys2Proof.Machine

/-- `a -w b`: subtraction modulo 2^W (R10, decision D2): the exact difference, narrowed to `W` bits. -/
def gap (W : Nat) (a b : Nat) : Nat := (((a : Int) - (b : Int)) % ((2 ^ W : Nat) : Int)).toNat

/-- `FRAME[p]`, slot `p`, is bit `p` of the frame word (R9, R51). -/
def slot (f : FrameWord) (p : Nat) : Bool := f.getLsbD p

/-- `FRAME[p] <- v` (R10): one slot takes the value `v`, every other bit stays. -/
def setSlot (f : FrameWord) (p : Nat) (v : Bool) : FrameWord :=
  if v then f ||| (1#64 <<< p) else f &&& ~~~(1#64 <<< p)

/-- The slot write of an APPEND in the mode `FRAME_WRITE` (R120 step 1, R121). -/
def writeSlot (mode : FrameWrite) (f : FrameWord) (p : Nat) (v : Bool) : FrameWord :=
  match mode with
  | .assign => setSlot f p v
  | .or => setSlot f p (slot f p || v)

/-- `field(o, w) = zext_8(FRAME[o+w-1:o])` (R52, R82). -/
def field (f : FrameWord) (o w : Nat) : Byte := (f.extractLsb' o w).setWidth 8

/-- `bcd2dec(b) = b - (b // 16) * 6` (R142); "exact and never negative", so it never wraps. -/
def bcd2dec (b : Byte) : Byte := b - (b / 16) * 6

/-- `TICK`'s write for a given ticker function: `SECOND <- TICK_FN(SECOND)` (R162). -/
def tickRegs (tickFn : Byte → Byte) (r : Regs) : Regs :=
  { r with time := { r.time with second := tickFn r.time.second } }

/-- A step that is no EDGE: `obs_valid = 0` "and the other two are don't-care" (R79): two free values, drawn
with the counter (log 6). -/
def State.quiet (s : State) : State :=
  { s with
    obs := { valid := false, raw := Config.dontCare s.free, active := Config.dontCare (s.free + 1) },
    free := s.free + 2 }

/-- The end of an EDGE step: the observer output pulses with the raw and the effective level (R79, R100). -/
def State.afterEdge (s : State) (l active : Bool) (r : Regs) : State :=
  { s with regs := r, obs := { valid := true, raw := l, active := active }, answers := [] }

/-- The end of a step that changes registers and is no EDGE: no observer pulse (R79), no query answer. -/
def State.afterEvent (s : State) (r : Regs) : State :=
  { s.quiet with regs := r, answers := [] }

/-- The end of a step that holds one query and no command: "a query changes no state" (R55, R163); the query port
returns `a` (R75). -/
def State.afterQuery (s : State) (a : Answer) : State :=
  { s.quiet with answers := [a] }

/-- The idle step: "no register changes and the observer output does not pulse" (R72). -/
def State.performIdle (s : State) : State := s.afterEvent s.regs

/-- The reset step (R200): every register takes its reset value, `obs_valid = 0`, and the configuration inputs
`c` are latched for the run (log 5). -/
def State.performReset (s : State) (c : Cfg) : State :=
  { s.afterEvent Regs.reset with cfg := c }

end Sys2Proof.Machine
end

