-- ==== Sys2Proof/Machine/Operands.lean ====
section
/-!
DEFINITION. The operand forms: the effective level of an edge, the semantic events and their codes
(spec/30_encoding.md R77), the fields of the minute frame (R80), the packing of `q_time` (R76), and the
configuration word `CFG[2:0]` (spec/10_state.md R28).
-/

namespace Sys2Proof.Machine

/-- The effective level `a = L ^ INVERT_SIGNAL`: 1 is "signal becomes active" (R100). -/
def effectiveLevel (c : Cfg) (l : Bool) : Bool := l ^^ c.invertSignal

/-- The classifier's result for one EDGE (R77): a value internal to the step. -/
inductive Sev where
  | second
  | append (v : Bool)
  | glitch
  | finalize
deriving DecidableEq, Repr

/-- `SEV = {kind[1:0], v}` (R77). -/
def Sev.code : Sev → SevCode
  | .second => 0b000#3
  | .append v => 0b01#2 ++ BitVec.ofBool v
  | .glitch => 0b100#3
  | .finalize => 0b110#3

/-- Minute, slots 21 to 27 (R80). -/
def minuteField (f : FrameWord) : Byte := field f 21 7
/-- Hour, slots 29 to 34 (R80). -/
def hourField (f : FrameWord) : Byte := field f 29 6
/-- Day of month, slots 36 to 41 (R80). -/
def dayField (f : FrameWord) : Byte := field f 36 6
/-- Weekday, slots 42 to 44 (R80). -/
def weekdayField (f : FrameWord) : Byte := field f 42 3
/-- Month, slots 45 to 49 (R80). -/
def monthField (f : FrameWord) : Byte := field f 45 5
/-- Year, slots 50 to 57 (R80). -/
def yearField (f : FrameWord) : Byte := field f 50 8

/-- `q_time = {YEAR, MONTH, WEEKDAY, DAY, HOUR, MINUTE, SECOND}`, 8 bits each, `SECOND` lowest (R76, R160). -/
def packTime (t : DecodedTime) : BitVec 56 :=
  t.year ++ t.month ++ t.weekday ++ t.day ++ t.hour ++ t.minute ++ t.second

/-- The configuration word `CFG[2:0]` (R28). -/
def cfgWord (c : Cfg) : BitVec 3 :=
  BitVec.ofBool (decide (c.frameWrite = .or)) ++
    (BitVec.ofBool (decide (c.refreshPolicy = .successOnly)) ++ BitVec.ofBool c.invertSignal)

/-- The configuration a word `CFG[2:0]` stands for (R28). -/
def cfgOfWord (w : BitVec 3) : Cfg :=
  { invertSignal := w.getLsbD 0
    refreshPolicy := if w.getLsbD 1 then .successOnly else .anyFinalize
    frameWrite := if w.getLsbD 2 then .or else .assign }

end Sys2Proof.Machine
end

