-- ==== Sys2Proof/Machine/Flags.lean ====
section
/-!
DEFINITION. The parity flags, "the block's only flags" (spec/10_state.md R29): the three live accumulators, the
three captures, and the parity validation (spec/41_bit_accumulator.md R122, R123; spec/42_frame_finalizer.md
R143).
-/

namespace Sys2Proof.Machine

/-- The three segments, each covered by one parity bit (R12, R84). -/
inductive Seg where
  | minute
  | hour
  | date
deriving DecidableEq, Repr

/-- The start boundaries, "bit positions 21, 29, 36" (R84, R122). -/
def segStart : Seg → Nat
  | .minute => 21
  | .hour => 29
  | .date => 36

/-- The end boundaries, "bit positions 28, 35, 58": the parity slots (R84, R123). The segment is every slot from
its start boundary to the slot before its end boundary. -/
def segEnd : Seg → Nat
  | .minute => 28
  | .hour => 35
  | .date => 58

/-- The live accumulator of a segment (R23). -/
def Regs.acc (r : Regs) : Seg → Bool
  | .minute => r.accMin
  | .hour => r.accHour
  | .date => r.accDate

/-- The captured parity of a segment (R24). -/
def Regs.cap (r : Regs) : Seg → Bool
  | .minute => r.capMin
  | .hour => r.capHour
  | .date => r.capDate

/-- The accumulator after an APPEND of `v` at slot `p` (R120 step 3, R122): set at the start slot, XORed at every
other slot of the segment, else unchanged. -/
def accNext (g : Seg) (p : Nat) (v a : Bool) : Bool :=
  if p = segStart g then v
  else if segStart g < p ∧ p < segEnd g then a ^^ v
  else a

/-- The capture after an APPEND at slot `p` (R120 step 2, R123): the accumulator at the end slot, else
unchanged. -/
def capNext (g : Seg) (p : Nat) (a c : Bool) : Bool :=
  if p = segEnd g then a else c

/-- R120 step 2: "capture at segment end boundaries". -/
def Regs.capture (r : Regs) (p : Nat) : Regs :=
  { r with
    capMin := capNext .minute p r.accMin r.capMin
    capHour := capNext .hour p r.accHour r.capHour
    capDate := capNext .date p r.accDate r.capDate }

/-- R120 step 3: "accumulate within segments, reset at segment start boundaries". -/
def Regs.accumulate (r : Regs) (p : Nat) (v : Bool) : Regs :=
  { r with
    accMin := accNext .minute p v r.accMin
    accHour := accNext .hour p v r.accHour
    accDate := accNext .date p v r.accDate }

/-- R143: `ok <- (CAP_MIN == F[28]) and (CAP_HOUR == F[35]) and (CAP_DATE == F[58])`. -/
def Regs.parityOk (r : Regs) : Bool :=
  (r.capMin == slot r.frame 28) && (r.capHour == slot r.frame 35) && (r.capDate == slot r.frame 58)

/-- The XOR of the slots of a segment in a frame (R84, R127). -/
def segXor (f : FrameWord) (g : Seg) : Bool :=
  (List.range (segEnd g - segStart g)).foldl (fun a k => a ^^ slot f (segStart g + k)) false

end Sys2Proof.Machine
end

