-- ==== Sys2Proof/Machine/Finalizer.lean ====
section
/-!
DEFINITION. The frame finalizer (spec/42_frame_finalizer.md): FINALIZE and the row SEV_FINALIZE.
-/

namespace Sys2Proof.Machine

/-- Steps 1 and 2 of FINALIZE: extract each field and convert it (R140, R141, R142); `SECOND` is 0 (R144). -/
def decodeFrame (f : FrameWord) : DecodedTime :=
  { second := 0
    minute := bcd2dec (minuteField f)
    hour := bcd2dec (hourField f)
    day := bcd2dec (dayField f)
    weekday := bcd2dec (weekdayField f)
    month := bcd2dec (monthField f)
    year := bcd2dec (yearField f) }

/-- Steps 4 and 5: publish all seven registers or discard the candidate (R144, R145). -/
def Regs.publish (r : Regs) (ok : Bool) : Regs :=
  if ok then { r with time := decodeFrame r.frame } else r

/-- Step 6: refresh the sync timestamp under `REFRESH_POLICY` (R146). -/
def Regs.refresh (r : Regs) (c : Cfg) (ok : Bool) (now : Nat) : Regs :=
  if c.refreshPolicy = .anyFinalize ∨ ok = true then { r with lastFinalize := now } else r

/-- "Every finalize ends with `FRAME <- 0` and `POS <- 0`, successful or not" (R147). -/
def Regs.clearFrame (r : Regs) : Regs := { r with frame := 0, pos := 0 }

/-- `FINALIZE(now)` (R140). -/
def Regs.finalize (r : Regs) (c : Cfg) (now : Nat) : Regs :=
  let ok := r.parityOk
  ((r.publish ok).refresh c ok now).clearFrame

/-- Row SEV_FINALIZE: FINALIZE(now) as R140 writes it. `LAST_RISING` is the classifier's (R102, R107) and is not
written (log 8). -/
def execSevFinalize (now : Nat) (s : State) : Host.Outcome State Fault Refusal :=
  .next (s.afterEvent (s.regs.finalize s.cfg now))

end Sys2Proof.Machine
end

