-- ==== Sys2Proof/Machine/Accumulator.lean ====
section
/-!
DEFINITION. The bit accumulator (spec/41_bit_accumulator.md): APPEND and GLITCH, and the rows SEV_APPEND and
SEV_GLITCH.
-/

namespace Sys2Proof.Machine

/-- Steps 1 to 3 of APPEND: slot write, capture, accumulation, at position `p` (R120 to R123). -/
def Regs.appendAt (r : Regs) (c : Cfg) (p : Nat) (v : Bool) : Regs :=
  ({ r with frame := writeSlot c.frameWrite r.frame p v }.capture p).accumulate p v

/-- `APPEND(v, ts)` (R120). The incremented position is compared with 59 as an exact number; the value 60 is never
stored (R22, R124). A `POS` of 60 to 63 is in no state a run reaches; there too the step finalizes (log 11). -/
def Regs.append (r : Regs) (c : Cfg) (v : Bool) (ts : Nat) : Regs :=
  let p := r.pos.toNat
  if p + 1 > 59 then (r.appendAt c p v).finalize c ts
  else { r.appendAt c p v with pos := r.pos + 1 }

/-- `GLITCH()`: "decrements position by 1, floored at 0" (R125). -/
def Regs.glitch (r : Regs) : Regs :=
  if r.pos > 0 then { r with pos := r.pos - 1 } else r

/-- Row SEV_APPEND: APPEND(v, ts) (R120). -/
def execSevAppend (v : Bool) (ts : Nat) (s : State) : Host.Outcome State Fault Refusal :=
  .next (s.afterEvent (s.regs.append s.cfg v ts))

/-- Row SEV_GLITCH: GLITCH() (R125); it has no operand, so the step's timestamp is not read. -/
def execSevGlitch (_ts : Nat) (s : State) : Host.Outcome State Fault Refusal :=
  .next (s.afterEvent s.regs.glitch)

end Sys2Proof.Machine
end

