-- ==== Sys2Proof/Machine/Classifier.lean ====
section
/-!
DEFINITION. The edge classifier (spec/40_edge_classifier.md): EDGE, and the row SEV_SECOND.
-/

namespace Sys2Proof.Machine

/-- The semantic event of an EDGE with effective level `a` and gap or duration `d` (R100, R101): the tests in the
order R100 writes them; a pulse shorter than `T_SPLIT` is 0, otherwise 1 (R105). -/
def classify (p : Params) (a : Bool) (d : Nat) : Sev :=
  if a = true then
    if d > p.tSync then .finalize
    else if d < p.tGlitch then .glitch
    else .second
  else .append (if d < p.tSplit then false else true)

/-- `RISE_SYNC(ts)`: FINALIZE, then `LAST_RISING <- ts` (R102). -/
def Regs.riseSync (r : Regs) (c : Cfg) (ts : Nat) : Regs :=
  { r.finalize c ts with lastRising := ts }

/-- `RISE_GLITCH()`: GLITCH; `LAST_RISING` keeps the last accepted edge (R103). -/
def Regs.riseGlitch (r : Regs) : Regs := r.glitch

/-- `RISE_SECOND(ts)`: `LAST_RISING <- ts` and nothing else (R104, R126). -/
def Regs.riseSecond (r : Regs) (ts : Nat) : Regs := { r with lastRising := ts }

/-- `FALL_BIT`: the classified bit is appended; `LAST_RISING` is unchanged (R105). -/
def Regs.fallBit (r : Regs) (c : Cfg) (v : Bool) (ts : Nat) : Regs := r.append c v ts

/-- The called rule of each semantic event (R100). -/
def Regs.perform (r : Regs) (c : Cfg) (e : Sev) (ts : Nat) : Regs :=
  match e with
  | .finalize => r.riseSync c ts
  | .glitch => r.riseGlitch
  | .second => r.riseSecond ts
  | .append v => r.fallBit c v ts

/-- The semantic event an `EDGE L @ts` produces: it depends on `L`, `ts`, `INVERT_SIGNAL` and `LAST_RISING` alone
(R100, R106, R107). -/
def edgeSev (p : Params) (c : Cfg) (lastRising : Nat) (l : Bool) (ts : Nat) : Sev :=
  classify p (effectiveLevel c l) (gap p.W ts lastRising)

/-- Row EDGE: `EDGE L @ts` (R100). -/
def execEdge (l : Bool) (ts : Nat) (s : State) : Host.Outcome State Fault Refusal :=
  .next (s.afterEdge l (effectiveLevel s.cfg l)
    (s.regs.perform s.cfg (edgeSev s.params s.cfg s.regs.lastRising l ts) ts))

/-- Row SEV_SECOND: `RISE_SECOND(ts)`, the rule its table row names (R104, R126; log 8). -/
def execSevSecond (ts : Nat) (s : State) : Host.Outcome State Fault Refusal :=
  .next (s.afterEvent (s.regs.riseSecond ts))

end Sys2Proof.Machine
end

