-- ==== Sys2Proof/Machine/Reserved.lean ====
section
/-!
DEFINITION. The reserved rows: command opcodes that "name no command" (spec/30_encoding.md R73) and semantic-event
codes that "are never produced" (R78). A model refuses them (spec/60_exceptions.md R182); the refusal ends the
run, so no claim is made of a run that presents one (log 14).
-/

namespace Sys2Proof.Machine

/-- Row RESERVED_011 (R73). -/
def execReserved011 (_ts : Nat) (_s : State) : Host.Outcome State Fault Refusal :=
  .refused (.reservedCommand 0b011#3)

/-- Row RESERVED_1XX (R73). -/
def execReserved1xx (opLow : BitVec 2) (_ts : Nat) (_s : State) : Host.Outcome State Fault Refusal :=
  .refused (.reservedCommand (1#1 ++ opLow))

/-- Row SEV_RESERVED_001 (R78). -/
def execSevReserved001 (_ts : Nat) (_s : State) : Host.Outcome State Fault Refusal :=
  .refused (.reservedSev 0b001#3)

/-- Row SEV_RESERVED_101 (R78). -/
def execSevReserved101 (_ts : Nat) (_s : State) : Host.Outcome State Fault Refusal :=
  .refused (.reservedSev 0b101#3)

/-- Row SEV_RESERVED_111 (R78). -/
def execSevReserved111 (_ts : Nat) (_s : State) : Host.Outcome State Fault Refusal :=
  .refused (.reservedSev 0b111#3)

end Sys2Proof.Machine
end

