-- ==== Sys2Proof/Machine/TimeState.lean ====
section
/-!
DEFINITION. The time state and sync tracker (spec/43_time_state.md): GET_TIME, SYNCED, TICK.
-/

namespace Sys2Proof.Machine

/-- `SYNCED @now`: `(DAY != 0) and (MONTH != 0) and ((now -w LAST_FINALIZE) <= T_FRESH)` (R161). -/
def isSynced (p : Params) (r : Regs) (now : Nat) : Bool :=
  (r.time.day != 0) && (r.time.month != 0) && decide (gap p.W now r.lastFinalize ≤ p.tFresh)

/-- Row GET_TIME (R160); `q_now` is ignored (R75). -/
def execGetTime (_now : Nat) (s : State) : Host.Outcome State Fault Refusal :=
  .next (s.afterQuery (.time (packTime s.regs.time)))

/-- Row SYNCED (R161). -/
def execSynced (now : Nat) (s : State) : Host.Outcome State Fault Refusal :=
  .next (s.afterQuery (.synced (isSynced s.params s.regs now)))

/-- Row TICK: `SECOND <- TICK_FN(SECOND)` for the open parameter `TICK_FN` (R162; log 7); `cmd_ts` is ignored
(R74). -/
def execTick (_ts : Nat) (s : State) : Host.Outcome State Fault Refusal :=
  .next (s.afterEvent (tickRegs Config.tickFn s.regs))

end Sys2Proof.Machine
end

