-- ==== Sys2Proof/Machine/Dispatch.lean ====
section
/-!
DEFINITION. One arm per constructor of Instr.
-/

namespace Sys2Proof.Machine

/-- The meaning of every row of the opcode table. -/
def exec (i : Instr) (s : State) : Host.Outcome State Fault Refusal :=
  match i with
  -- command port (spec/30_encoding.md R71)
  | .edge l ts => Sys2Proof.Machine.execEdge l ts s
  | .tick ts => Sys2Proof.Machine.execTick ts s
  | .reserved011 ts => Sys2Proof.Machine.execReserved011 ts s
  | .reserved1xx opLow ts => Sys2Proof.Machine.execReserved1xx opLow ts s
  -- query port (R75)
  | .getTime now => Sys2Proof.Machine.execGetTime now s
  | .synced now => Sys2Proof.Machine.execSynced now s
  -- semantic events (R77, R78)
  | .sevSecond ts => Sys2Proof.Machine.execSevSecond ts s
  | .sevAppend v ts => Sys2Proof.Machine.execSevAppend v ts s
  | .sevGlitch ts => Sys2Proof.Machine.execSevGlitch ts s
  | .sevFinalize now => Sys2Proof.Machine.execSevFinalize now s
  | .sevReserved001 ts => Sys2Proof.Machine.execSevReserved001 ts s
  | .sevReserved101 ts => Sys2Proof.Machine.execSevReserved101 ts s
  | .sevReserved111 ts => Sys2Proof.Machine.execSevReserved111 ts s

end Sys2Proof.Machine
end

