-- ==== Sys2Proof/Machine/Present.lean ====
section
/-!
DEFINITION. How a step takes what the environment presents: the instruction on a port, the queries beside it, the idle
step, the reset step, and the refusal of a configuration input that changed without a reset.
-/

namespace Sys2Proof.Machine

/-- The instruction presented on the command port, or in its place; idle and reset present none. -/
def inputInstr (W : Nat) : Input → Option Instr
  | .idle => none
  | .command cw => some (decodeCommand W cw)
  | .event ew => some (decodeEvent W ew)
  | .reset => none

/-- What the query port returns for a query word at a step boundary (R75). -/
def State.ask (s : State) (qw : Nat) : List Answer :=
  match exec (decodeQuery s.params.W qw) s with
  | .next u => u.answers
  | .fault _ => []
  | .refused _ => []

/-- The boundary a query reads: "the state before that step or the state after it, never a mixture" (R57). -/
def Boundary.pick (b : Boundary) (s t : State) : State :=
  match b with
  | .before => s
  | .after => t

/-- The end `t` of a step from `s`, with the answers to the queries in it. Queries are "side-effect free" (R163): they
add answers and nothing else. -/
def State.answering (s t : State) (qs : List Query) : State :=
  { t with answers := t.answers ++ qs.flatMap fun q => (q.boundary.pick s t).ask q.word }

/-- What the environment presents on the command port, performed: a reset latches the configuration inputs (R200); the
instruction presented is performed; or the step is idle (R72). -/
def State.perform (s : State) (x : Stimulus) : Host.Outcome State Fault Refusal :=
  if x.input = .reset then .next (s.performReset x.cfg)
  else match inputInstr s.params.W x.input with
    | some i => exec i s
    | none => .next s.performIdle

/-- One step with the stimulus `x`. Configuration inputs that differ from the latched ones are refused unless the
step is a reset (R212). The queries in the step are answered at the boundary each reads (R57, R163). -/
def State.present (s : State) (x : Stimulus) : Host.Outcome State Fault Refusal :=
  if x.input ≠ .reset ∧ x.cfg ≠ s.cfg then .refused .configurationChanged
  else match s.perform x with
    | .next t => .next (s.answering t x.queries)
    | .fault f => .fault f
    | .refused r => .refused r

/-- The state with an input and queries put before all others, the configuration inputs held at their latched
values. -/
def State.withInput (s : State) (i : Input) (qs : List Query) : State :=
  { s with inputs := { cfg := s.cfg, input := i, queries := qs } :: s.inputs }

/-- The state whose next step presents an input word (log 9): port 0 on the command port, port 1 on the query port,
port 2 as a semantic event, port 3 nothing. -/
def State.withInputWord (s : State) (iw : Nat) : State :=
  if inputPort s.params.W iw = 0#2 then s.withInput (.command (inputBody s.params.W iw)) []
  else if inputPort s.params.W iw = 1#2 then s.withInput .idle [{ word := inputQuery s.params.W iw }]
  else if inputPort s.params.W iw = 2#2 then s.withInput (.event (inputBody s.params.W iw)) []
  else s.withInput .idle []

end Sys2Proof.Machine
end

