-- ==== Sys2Proof/Machine/Step.lean ====
section
/-!
DEFINITION. One step of the model (spec/00_scope.md R6): the environment presents the next stimulus of the list, or
nothing, and the block performs it whole.
-/

namespace Sys2Proof.Machine

/-- One step: the head of the input list is taken off and performed; with nothing to present the step is idle
(R72; log 4). -/
def step (s : State) : Host.Outcome State Fault Refusal :=
  match s.inputs with
  | [] => .next s.performIdle
  | x :: rest => { s with inputs := rest }.present x

/-- The state whose very next step performs the input word `w` of `nbits` bits (log 9, log 10). -/
def State.withFetchWord (s : State) (nbits w : Nat) : State :=
  s.withInputWord (tableInputWord nbits w)

end Sys2Proof.Machine
end

