-- ==== Sys2Proof/Machine/Listing.lean ====
section
/-!
DEFINITION. The listing form and the pseudo-instructions (spec/30_encoding.md R86, R87): "notations for command
sequences; the block sees only the expanded EDGE commands". Nothing of `step` calls them.
-/

namespace Sys2Proof.Machine

/-- One line of a listing (R86), or a pseudo-instruction (R87). -/
inductive Line where
  | edge (l : Bool) (ts : Nat)
  | tick
  | getTime
  | synced (now : Nat)
  | idle
  | rise (t : Nat)
  | fall (t : Nat)
  | bit (b : Bool) (t : Nat)
  | minute (f : FrameWord) (t0 : Nat)
deriving DecidableEq, Repr

/-- The command word `{ts, 0b00, L}` of a line `EDGE <L> @<ts>` (R86). -/
def edgeInput (l : Bool) (ts : Nat) : Input :=
  .command (commandWord ts (0b00#2 ++ BitVec.ofBool l))

/-- A step that presents `i` on the command port and no query. -/
def Stimulus.ofInput (c : Cfg) (i : Input) : Stimulus := { cfg := c, input := i }

/-- A step that presents a query and no command. -/
def Stimulus.ofQuery (c : Cfg) (qw : Nat) : Stimulus := { cfg := c, input := .idle, queries := [{ word := qw }] }

/-- `RISE @t` is `EDGE (1 ^ I) @t` (R87). -/
def riseInput (c : Cfg) (t : Nat) : Input := edgeInput (true ^^ c.invertSignal) t

/-- `FALL @t` is `EDGE (0 ^ I) @t` (R87). -/
def fallInput (c : Cfg) (t : Nat) : Input := edgeInput (false ^^ c.invertSignal) t

/-- `BIT b @t`: a rising edge, and a falling edge 100 ms later for 0 or 200 ms later for 1 (R85, R87). -/
def bitInputs (c : Cfg) (b : Bool) (t : Nat) : List Input :=
  [riseInput c t, fallInput c (t + if b then 200 else 100)]

/-- The bits of `n` consecutive seconds from second `p` of a minute that began at `t0` (R87). -/
def secondsInputs (c : Cfg) (f : FrameWord) (t0 : Nat) : Nat → Nat → List Input
  | _, 0 => []
  | p, n + 1 => bitInputs c (slot f p) (t0 + 1000 * p) ++ secondsInputs c f t0 (p + 1) n

/-- `MINUTE F @t0` is `BIT F[p] @(t0 + 1000 * p)` for `p` = 0 to 58 (R87). -/
def minuteInputs (c : Cfg) (f : FrameWord) (t0 : Nat) : List Input := secondsInputs c f t0 0 59

/-- What a line presents, in order, with the configuration inputs held at `c` (R86, R87, R204). A timestamp past
2^W - 1 goes on the port modulo 2^W, as every timestamp does. -/
def Line.stimuli (c : Cfg) : Line → List Stimulus
  | .edge l ts => [.ofInput c (edgeInput l ts)]
  | .tick => [.ofInput c (.command (commandWord 0 0b010#3))]
  | .getTime => [.ofQuery c (queryWord 0 0#1)]
  | .synced now => [.ofQuery c (queryWord now 1#1)]
  | .idle => [.ofInput c .idle]
  | .rise t => [.ofInput c (riseInput c t)]
  | .fall t => [.ofInput c (fallInput c t)]
  | .bit b t => (bitInputs c b t).map (.ofInput c)
  | .minute f t0 => (minuteInputs c f t0).map (.ofInput c)

/-- The instructions a stimulus presents: the command port's, then the queries'. -/
def Stimulus.instrs (W : Nat) (x : Stimulus) : List Instr :=
  (inputInstr W x.input).toList ++ x.queries.map fun q => decodeQuery W q.word

/-- A bit as the listing writes it. -/
def bitText (b : Bool) : String := if b then "1" else "0"

/-- The written form of a line (R86, R87); numbers are decimal. -/
def Line.text : Line → String
  | .edge l ts => "EDGE " ++ bitText l ++ " @" ++ toString ts
  | .tick => "TICK"
  | .getTime => "GET_TIME"
  | .synced now => "SYNCED @" ++ toString now
  | .idle => "IDLE"
  | .rise t => "RISE @" ++ toString t
  | .fall t => "FALL @" ++ toString t
  | .bit b t => "BIT " ++ bitText b ++ " @" ++ toString t
  | .minute f t0 => "MINUTE " ++ toString f.toNat ++ " @" ++ toString t0

/-- What the lines of a program present, with the configuration inputs held at `c` (R204). -/
def programStimuli (c : Cfg) (lines : List Line) : List Stimulus := lines.flatMap (Line.stimuli c)

end Sys2Proof.Machine
end

