-- ==== Sys2Proof/Machine/Telegram.lean ====
section
/-!
DEFINITION. The data encoding of the DCF77 minute frame (spec/30_encoding.md R80 to R84): the layout, the BCD code,
the parity code, and the frame that encodes a given time. Nothing of the block calls the encoder: it is what the
broadcast sends, and claims about decoding are stated with it.
-/

namespace Sys2Proof.Machine

/-- One row of the frame layout: slots `offset` to `offset + width - 1` (R80). -/
structure FrameRow where
  name : String
  offset : Nat
  width : Nat
deriving DecidableEq, Repr

/-- The frame layout, every slot in one row (R80). -/
def frameLayout : List FrameRow :=
  [{ name := "unused", offset := 0, width := 21 },
   { name := "minute", offset := 21, width := 7 },
   { name := "parity minute", offset := 28, width := 1 },
   { name := "hour", offset := 29, width := 6 },
   { name := "parity hour", offset := 35, width := 1 },
   { name := "day", offset := 36, width := 6 },
   { name := "weekday", offset := 42, width := 3 },
   { name := "month", offset := 45, width := 5 },
   { name := "year", offset := 50, width := 8 },
   { name := "parity date", offset := 58, width := 1 },
   { name := "slot 59", offset := 59, width := 1 }]

/-- The BCD code of a two-digit decimal value: `(d // 10) * 16 + (d mod 10)` (R83). -/
def bcdEncode (d : Byte) : Byte := (d / 10) * 16 + d % 10

/-- Slots 0 to 58 of a frame with the fields of `t`, the ignored slots `unused`, and the given parity slots (R80,
R83); slot 59 and bits 60 to 63 are 0. Weekday is its binary value, `t.second` is not sent. -/
def frameWith (unused : BitVec 21) (t : DecodedTime) (pMin pHour pDate : Bool) : FrameWord :=
  0#5 ++ (BitVec.ofBool pDate ++ ((bcdEncode t.year).setWidth 8 ++ ((bcdEncode t.month).setWidth 5 ++
    (t.weekday.setWidth 3 ++ ((bcdEncode t.day).setWidth 6 ++ (BitVec.ofBool pHour ++
      ((bcdEncode t.hour).setWidth 6 ++ (BitVec.ofBool pMin ++
        ((bcdEncode t.minute).setWidth 7 ++ unused)))))))))

/-- The frame that encodes `t`, each parity slot the XOR of its segment (R84). -/
def telegram (unused : BitVec 21) (t : DecodedTime) : FrameWord :=
  let f := frameWith unused t false false false
  frameWith unused t (segXor f .minute) (segXor f .hour) (segXor f .date)

/-- The ranges of a correctly encoded time (R151, column "decimal range of a correct frame"); `second` is 0 (R144)
and `weekday` has 3 bits (R83). -/
def DecodedTime.correct (t : DecodedTime) : Bool :=
  t.second == 0 && decide (t.minute ≤ 59) && decide (t.hour ≤ 23) &&
    decide (1 ≤ t.day) && decide (t.day ≤ 31) && decide (t.weekday ≤ 7) &&
    decide (1 ≤ t.month) && decide (t.month ≤ 12) && decide (t.year ≤ 99)

end Sys2Proof.Machine
end

