-- ==== Sys2Proof/WellFormed.lean ====
section
/-!
DEFINITION. What the environment may present: an instruction that a rule gives a meaning
(spec/30_encoding.md R73, R78) with an operand of the port's width, and parameters as spec/00_scope.md R7 demands.
-/

namespace Sys2Proof

/-- The timestamp operand of an instruction (R70, R75; log 8). -/
def Instr.timestamp : Instr → Nat
  | .edge _ ts => ts
  | .tick ts => ts
  | .reserved011 ts => ts
  | .reserved1xx _ ts => ts
  | .getTime now => now
  | .synced now => now
  | .sevSecond ts => ts
  | .sevAppend _ ts => ts
  | .sevGlitch ts => ts
  | .sevFinalize now => now
  | .sevReserved001 ts => ts
  | .sevReserved101 ts => ts
  | .sevReserved111 ts => ts

/-- The timestamp operand has `W` bits (R70, R75); every other operand has its encoding's width by its type. -/
abbrev Instr.fits (W : Nat) (i : Instr) : Prop := i.timestamp < 2 ^ W

/-- R73: reserved command opcodes "name no command"; R78: the codes `001`, `101` and `111` are never
produced. -/
def Instr.named : Instr → Bool
  | .edge _ _ => true
  | .tick _ => true
  | .reserved011 _ => false
  | .reserved1xx _ _ => false
  | .getTime _ => true
  | .synced _ => true
  | .sevSecond _ => true
  | .sevAppend _ _ => true
  | .sevGlitch _ => true
  | .sevFinalize _ => true
  | .sevReserved001 _ => false
  | .sevReserved101 _ => false
  | .sevReserved111 _ => false

/-- An instruction the environment may present to a block of timestamp width `W`. -/
def Instr.wellFormed (W : Nat) (i : Instr) : Bool := decide (i.fits W) && i.named

/-- R7: "`W` must be at least 17 so that `T_FRESH` = 120000 [...] is representable as a W-bit value", and "The
thresholds must satisfy `T_SPLIT < T_GLITCH <= T_SYNC`". No rule of the block checks it, so no meaning of the
model assumes it. -/
def Params.wellFormed (p : Params) : Bool :=
  decide (17 ≤ p.W) && decide (p.tFresh < 2 ^ p.W) &&
    decide (p.tSplit < p.tGlitch) && decide (p.tGlitch ≤ p.tSync)

end Sys2Proof
end

