-- ==== Sys2Proof/Safety.lean ====
section
/-!
DEFINITION. What counts as a safe run, and the terms claims are stated in: the invariant of spec/10_state.md R32 with
the ranges of spec/42_frame_finalizer.md R151, the environment's contract (spec/70_reset_and_hazards.md R204), runs of
semantic events, and the log of the bits appended in a segment (spec/41_bit_accumulator.md R127).
-/

namespace Sys2Proof.Machine

/-- The ranges of the published values, for any frame (R151). -/
abbrev DecodedTime.InRange (t : DecodedTime) : Prop :=
  t.minute ≤ 85 ∧ t.hour ≤ 45 ∧ t.day ≤ 45 ∧ t.weekday ≤ 7 ∧ t.month ≤ 25 ∧ t.year ≤ 165

/-- R32 at a step boundary: `POS` is at most 59 (item 1, R22), `FRAME[63:60]` is 0 (item 2, R21), the calendar
registers are in the ranges a FINALIZE can publish (R151), and the timestamp registers have `W` bits (R25, R27). -/
abbrev Regs.Inv (W : Nat) (r : Regs) : Prop :=
  r.pos ≤ 59 ∧ r.frame.extractLsb' 60 4 = 0#4 ∧ r.time.InRange ∧ r.lastRising < 2 ^ W ∧ r.lastFinalize < 2 ^ W

/-- The invariant of a state. -/
abbrev State.Inv (s : State) : Prop := s.regs.Inv s.params.W

/-- The next step is a reset step (R200). -/
def State.resetNext (s : State) : Prop := ∃ x rest, s.inputs = x :: rest ∧ x.input = .reset

/-- The environment's contract about what it presents, from configuration `c` on (R28, R73, R78, R204, R212): every
instruction presented is well-formed, and the configuration inputs change only together with a reset. A query is
always well-formed, and any number may stand in a step. -/
def admissible (W : Nat) (c : Cfg) : List Stimulus → Bool
  | [] => true
  | x :: rest =>
    if x.input = .reset then admissible W x.cfg rest
    else decide (x.cfg = c) && (inputInstr W x.input).all (Instr.wellFormed W) && admissible W c rest

/-- The timestamp an instruction reads as the time of an event (R204 item 3): `cmd_ts` of an EDGE, or the step's
timestamp of a presented semantic event. TICK reads none (R74), and a query's `now` is the reader's. -/
def eventTime : Instr → Option Nat
  | .edge _ ts => some ts
  | .tick _ => none
  | .reserved011 _ => none
  | .reserved1xx _ _ => none
  | .getTime _ => none
  | .synced _ => none
  | .sevSecond ts => some ts
  | .sevAppend _ ts => some ts
  | .sevGlitch ts => some ts
  | .sevFinalize ts => some ts
  | .sevReserved001 _ => none
  | .sevReserved101 _ => none
  | .sevReserved111 _ => none

/-- "timestamps from one millisecond clock that is monotonically non-decreasing across commands" (R204 item 3): every
event time of the list is at least the one before it, and the first at least `t`. -/
def timesFrom (W : Nat) (t : Nat) : List Stimulus → Bool
  | [] => true
  | x :: rest =>
    match (inputInstr W x.input).bind eventTime with
    | some ts => decide (t ≤ ts) && timesFrom W ts rest
    | none => timesFrom W t rest

/-- The state keeps the caller's clock: both timestamp registers are at or before a time from which the inputs still to
come do not decrease. -/
def State.ClockKept (s : State) : Prop :=
  ∃ t : Nat, s.regs.lastRising ≤ t ∧ s.regs.lastFinalize ≤ t ∧ timesFrom s.params.W t s.inputs = true

/-- The registers after a sequence of semantic events with their steps' timestamps (R100). -/
def Regs.run (c : Cfg) : List (Sev × Nat) → Regs → Regs
  | [], r => r
  | (e, ts) :: rest, r => Regs.run c rest (r.perform c e ts)

/-- The bits appended at slots of segment `g` since the last APPEND at its start slot, oldest first, after the event `e`
at position `p` (R127): the start slot begins the log anew. -/
def segLog (g : Seg) (p : Nat) (e : Sev) (log : List Bool) : List Bool :=
  match e with
  | .append v =>
    if p = segStart g then [v]
    else if segStart g < p ∧ p < segEnd g then log ++ [v]
    else log
  | .second => log
  | .glitch => log
  | .finalize => log

/-- The log of segment `g` after a sequence of semantic events from registers `r` (R127). -/
def Regs.logAfter (c : Cfg) (g : Seg) : List (Sev × Nat) → Regs → List Bool → List Bool
  | [], _, log => log
  | (e, ts) :: rest, r, log => Regs.logAfter c g rest (r.perform c e ts) (segLog g r.pos.toNat e log)

/-- The XOR of a list of bits (R127). -/
def xorAll (bs : List Bool) : Bool := bs.foldl (fun a b => a ^^ b) false

/-- The registers after appending a list of bits in order with no GLITCH between, all with the timestamp `ts`. -/
def Regs.appendAll (c : Cfg) (ts : Nat) (bs : List Bool) (r : Regs) : Regs :=
  bs.foldl (fun r b => r.append c b ts) r

/-- The bits of slots 0 to `n - 1` of a frame, in slot order. -/
def frameBits (f : FrameWord) (n : Nat) : List Bool := (List.range n).map (slot f)

/-- The registers with their live accumulators replaced (R129: what a claim about their irrelevance varies). -/
def Regs.withAccs (r : Regs) (a b d : Bool) : Regs := { r with accMin := a, accHour := b, accDate := d }

/-- What no command, query or event changes besides registers and outputs: the latched configuration, the parameters,
and the inputs still to come. -/
abbrev State.SameSetup (s t : State) : Prop :=
  t.cfg = s.cfg ∧ t.params = s.params ∧ t.inputs = s.inputs

/-- A query of the query port (R75). -/
def Instr.isQuery (i : Instr) : Prop := ∃ now, i = .getTime now ∨ i = .synced now

end Sys2Proof.Machine
end

