-- ==== Sys2Proof/Certificates/Slice0/Obligations.lean ====
section
/-!
DEFINITION. The statements for the provers. Each docstring names the rule of spec/ it formalises; a statement that
rests on a choice of the model names the log entry.
-/

open Sys2Proof Sys2Proof.Machine

/-! ### Encodings -/

/-- R70: `CW = {cmd_ts, cmd_op}`, "its value is `cmd_ts * 8 + cmd_op`", a number of `W + 3` bits, and the two fields read
back, for every timestamp width `W`. -/
def Obligations.CommandWordIsTsTimesEightPlusOp : Prop :=
  ∀ (W : Nat) (ts : Nat) (op : BitVec 3), ts < 2 ^ W →
    commandWord ts op = ts * 8 + op.toNat ∧ commandWord ts op < 2 ^ (W + 3) ∧
      cmdOp (commandWord ts op) = op ∧ cmdTs W (commandWord ts op) = ts

/-- R71: the command opcode map, every code of `cmd_op`, with `L = cmd_op[0]`; and whether an EDGE is a rising edge
depends on `L` and `INVERT_SIGNAL`. -/
def Obligations.CommandOpcodeMap : Prop :=
  ∀ (W : Nat) (ts : Nat) (c : Cfg) (l : Bool), ts < 2 ^ W →
    decodeCommand W (commandWord ts 0b000) = .edge false ts ∧
    decodeCommand W (commandWord ts 0b001) = .edge true ts ∧
    decodeCommand W (commandWord ts 0b010) = .tick ts ∧
    decodeCommand W (commandWord ts 0b011) = .reserved011 ts ∧
    decodeCommand W (commandWord ts 0b100) = .reserved1xx 0b00 ts ∧
    decodeCommand W (commandWord ts 0b101) = .reserved1xx 0b01 ts ∧
    decodeCommand W (commandWord ts 0b110) = .reserved1xx 0b10 ts ∧
    decodeCommand W (commandWord ts 0b111) = .reserved1xx 0b11 ts ∧
    (effectiveLevel c l = true ↔ l ≠ c.invertSignal)

/-- R75 (the query port's inputs): `q_op = 0` is GET_TIME, `q_op = 1` is SYNCED, whatever `q_now`; a query word has
`W + 1` bits. -/
def Obligations.QueryOpcodeMap : Prop :=
  ∀ (W : Nat) (now : Nat), now < 2 ^ W →
    decodeQuery W (queryWord now 0) = .getTime now ∧ decodeQuery W (queryWord now 1) = .synced now ∧
    queryWord now 0 < 2 ^ (W + 1) ∧ queryWord now 1 < 2 ^ (W + 1)

/-- R77, R78: each event's code decodes to its row, and the three other codes to the reserved rows. That a code can be
presented beside a timestamp is the model's choice (log 8). -/
def Obligations.SemanticEventCodes : Prop :=
  ∀ (ts : Nat) (v : Bool),
    decodeSev (Sev.code .second) ts = .sevSecond ts ∧
    decodeSev (Sev.code (.append v)) ts = .sevAppend v ts ∧
    decodeSev (Sev.code .glitch) ts = .sevGlitch ts ∧
    decodeSev (Sev.code .finalize) ts = .sevFinalize ts ∧
    decodeSev 0b001 ts = .sevReserved001 ts ∧
    decodeSev 0b101 ts = .sevReserved101 ts ∧
    decodeSev 0b111 ts = .sevReserved111 ts

/-- Words written out from the spec's encodings (spec/95_test_vectors.md X-1 to X-5, S-1, S-9, S-13). -/
def Obligations.KnownWordsDecode : Prop :=
  decodeCommand 32 0x1F41 = .edge true 1000 ∧
  decodeCommand 32 0x2260 = .edge false 1100 ∧
  decodeCommand 32 0x7FFFFFFF9 = .edge true 0xFFFFFFFF ∧
  decodeCommand 32 0x2 = .tick 0 ∧
  decodeCommand 32 0x7FFFFFFFA = .tick 0xFFFFFFFF ∧
  decodeCommand 32 0x1F43 = .reserved011 1000 ∧
  decodeQuery 32 0x0 = .getTime 0 ∧
  decodeQuery 32 0x1DC91 = .synced 61000 ∧
  decodeQuery 32 0x58613 = .synced 181001

/-- Decode and encode agree, for every timestamp width `W` and every instruction whose timestamp operand has `W` bits, with
every operand. The port tag of an input word is the model's choice (log 9). -/
def Obligations.DecodeEncodeAgree : Prop :=
  ∀ (W : Nat) (i : Instr), i.fits W → decodeInputWord W (encode W i) = some i

/-- The input word put at the head of the inputs is the very next thing a step performs, for every timestamp width, every
instruction whose operand fits it, and every state (log 9). -/
def Obligations.FetchedWordRunsNext : Prop :=
  (∀ i : Instr, i.fits 32 → decodeTableWord 37 (encode 32 i) = some i) ∧
  (∀ (i : Instr) (s : State), i.fits s.params.W →
    step (s.withFetchWord (s.params.W + 5) (encode s.params.W i)) = exec i s)

/-- R86, R87: the expansions of the pseudo-instructions, by the instructions their words decode to. -/
def Obligations.PseudoInstructionsExpand : Prop :=
  ∀ (W : Nat) (c : Cfg) (b l : Bool) (t : Nat) (f : FrameWord), t < 2 ^ W →
    (Line.stimuli c (.edge l t)).map (Stimulus.instrs W) = [[.edge l t]] ∧
    (Line.stimuli c .tick).map (Stimulus.instrs W) = [[.tick 0]] ∧
    (Line.stimuli c .getTime).map (Stimulus.instrs W) = [[.getTime 0]] ∧
    (Line.stimuli c (.synced t)).map (Stimulus.instrs W) = [[.synced t]] ∧
    (Line.stimuli c .idle).map (Stimulus.instrs W) = [[]] ∧
    (Line.stimuli c (.rise t)).map (Stimulus.instrs W) = [[.edge (true ^^ c.invertSignal) t]] ∧
    (Line.stimuli c (.fall t)).map (Stimulus.instrs W) = [[.edge (false ^^ c.invertSignal) t]] ∧
    Line.stimuli c (.bit b t) =
      Line.stimuli c (.rise t) ++ Line.stimuli c (.fall (t + if b then 200 else 100)) ∧
    Line.stimuli c (.minute f t) =
      (List.range 59).flatMap fun p => Line.stimuli c (.bit (slot f p) (t + 1000 * p))

/-! ### Steps, reset, configuration -/

/-- R6, R70, R75: a step is `exec` of the instruction the first stimulus presents, on its own port's decoder, with that
stimulus taken off and the configuration inputs unchanged. That what the environment presents is a list in State is the
model's choice (log 4), and so is presenting a semantic event by itself, the second clause's `decodeEvent` (log 8). -/
def Obligations.StepRunsDecodedInstruction : Prop :=
  (∀ (s : State) (x : Input) (i : Instr) (rest : List Stimulus),
    s.inputs = { cfg := s.cfg, input := x } :: rest →
    ((∃ cw, x = .command cw ∧ i = decodeCommand s.params.W cw) ∨
      (∃ ew, x = .event ew ∧ i = decodeEvent s.params.W ew)) →
    step s = exec i { s with inputs := rest }) ∧
  (∀ (s : State) (q : Query) (rest : List Stimulus),
    s.inputs = { cfg := s.cfg, input := .idle, queries := [q] } :: rest →
    step s = exec (decodeQuery s.params.W q.word) { s with inputs := rest })

/-- R72: "A step with `cmd_valid = 0` is idle: no register changes and the observer output does not pulse", with or
without queries in it. That the inputs still to come are a list (log 4), and that a step without a query leaves no answer
(log 12), are the model's choice. -/
def Obligations.IdleStepChangesNoRegister : Prop :=
  ∀ (s : State) (qs : List Query) (rest : List Stimulus),
    s.inputs = { cfg := s.cfg, input := .idle, queries := qs } :: rest →
    ∃ t, step s = .next t ∧ t.regs = s.regs ∧ t.obs.valid = false ∧ t.cfg = s.cfg ∧ t.params = s.params ∧
      (qs = [] → t.answers = []) ∧ t.inputs = rest

/-- The model's choice (log 4): with nothing left to present, a step is an idle step. -/
def Obligations.NothingPresentedIsIdle : Prop :=
  ∀ s : State, s.inputs = [] →
    ∃ t, step s = .next t ∧ t.regs = s.regs ∧ t.obs.valid = false ∧ t.cfg = s.cfg ∧ t.params = s.params ∧
      t.answers = [] ∧ t.inputs = []

/-- R200: a reset step sets every register to 0, drives `obs_valid = 0` and latches the configuration inputs, which
every step that is no reset then holds. That it keeps the parameters and the inputs still to come is the model's choice
(log 5). -/
def Obligations.ResetStepClearsEveryRegister : Prop :=
  (∀ (s : State) (c : Cfg) (qs : List Query) (rest : List Stimulus),
    s.inputs = { cfg := c, input := .reset, queries := qs } :: rest →
    ∃ t, step s = .next t ∧
      t.regs.frame = 0 ∧ t.regs.pos = 0 ∧
      t.regs.accMin = false ∧ t.regs.accHour = false ∧ t.regs.accDate = false ∧
      t.regs.capMin = false ∧ t.regs.capHour = false ∧ t.regs.capDate = false ∧
      t.regs.lastRising = 0 ∧ t.regs.lastFinalize = 0 ∧
      t.regs.time.second = 0 ∧ t.regs.time.minute = 0 ∧ t.regs.time.hour = 0 ∧ t.regs.time.day = 0 ∧
      t.regs.time.weekday = 0 ∧ t.regs.time.month = 0 ∧ t.regs.time.year = 0 ∧
      t.obs.valid = false ∧ t.cfg = c ∧ t.params = s.params ∧ t.inputs = rest) ∧
  (∀ s t : State, ¬ s.resetNext → step s = .next t → t.cfg = s.cfg)

/-- R20, R28, R7: the registers, the configuration and the parameters of the reset state. -/
def Obligations.ResetStateHasTheListedValues : Prop :=
  State.reset.regs.frame = 0 ∧ State.reset.regs.pos = 0 ∧
  State.reset.regs.accMin = false ∧ State.reset.regs.accHour = false ∧ State.reset.regs.accDate = false ∧
  State.reset.regs.capMin = false ∧ State.reset.regs.capHour = false ∧ State.reset.regs.capDate = false ∧
  State.reset.regs.lastRising = 0 ∧ State.reset.regs.lastFinalize = 0 ∧
  State.reset.regs.time.second = 0 ∧ State.reset.regs.time.minute = 0 ∧ State.reset.regs.time.hour = 0 ∧
  State.reset.regs.time.day = 0 ∧ State.reset.regs.time.weekday = 0 ∧ State.reset.regs.time.month = 0 ∧
  State.reset.regs.time.year = 0 ∧ State.reset.obs.valid = false ∧
  cfgWord State.reset.cfg = 0b000 ∧
  State.reset.params.W = 32 ∧ State.reset.params.tSync = 1200 ∧ State.reset.params.tGlitch = 300 ∧
  State.reset.params.tSplit = 140 ∧ State.reset.params.tFresh = 120000

/-- R28: the fields of the configuration word `CFG[2:0]`, bit by bit, in both directions. -/
def Obligations.ConfigurationWordFields : Prop :=
  ∀ (c : Cfg) (w : BitVec 3),
    ((cfgWord c).getLsbD 0 = true ↔ c.invertSignal = true) ∧
    ((cfgWord c).getLsbD 1 = true ↔ c.refreshPolicy = .successOnly) ∧
    ((cfgWord c).getLsbD 2 = true ↔ c.frameWrite = .or) ∧
    cfgOfWord (cfgWord c) = c ∧ cfgWord (cfgOfWord w) = w

/-- R212: "A model refuses a run in which a configuration input changes without a reset". -/
def Obligations.ChangedConfigurationIsRefused : Prop :=
  ∀ (s : State) (x : Stimulus) (rest : List Stimulus), s.inputs = x :: rest →
    x.input ≠ .reset → x.cfg ≠ s.cfg → step s = .refused .configurationChanged

/-! ### EDGE -/

/-- R104: a rising edge with `T_GLITCH <= d <= T_SYNC` writes `LAST_RISING` and nothing else. -/
def Obligations.SecondEdgeWritesLastRisingOnly : Prop :=
  ∀ (l : Bool) (ts : Nat) (s : State), (l ^^ s.cfg.invertSignal) = true →
    s.params.tGlitch ≤ gap s.params.W ts s.regs.lastRising →
    gap s.params.W ts s.regs.lastRising ≤ s.params.tSync →
    ∃ t, exec (.edge l ts) s = .next t ∧ t.regs = { s.regs with lastRising := ts } ∧
      (edgeSev s.params s.cfg s.regs.lastRising l ts).code = 0b000 ∧ s.SameSetup t ∧ t.answers = []

/-- R103, R125: a rising edge with `d < T_GLITCH` that is no sync gap rewinds `POS` by one, floored at 0, and nothing
else; `LAST_RISING` keeps its value. -/
def Obligations.GlitchEdgeRewindsPositionOnly : Prop :=
  ∀ (l : Bool) (ts : Nat) (s : State), (l ^^ s.cfg.invertSignal) = true →
    gap s.params.W ts s.regs.lastRising < s.params.tGlitch →
    ¬ gap s.params.W ts s.regs.lastRising > s.params.tSync →
    ∃ t, exec (.edge l ts) s = .next t ∧
      t.regs = { s.regs with pos := if s.regs.pos = 0 then 0 else s.regs.pos - 1 } ∧
      (edgeSev s.params s.cfg s.regs.lastRising l ts).code = 0b100 ∧ s.SameSetup t ∧ t.answers = []

/-- R102: a rising edge with `d > T_SYNC` performs FINALIZE(ts), whatever `POS` is, and writes `LAST_RISING`. What
FINALIZE does is stated by FinalizePublishesWhenParityMatches and FinalizeDiscardsOnMismatch. -/
def Obligations.SyncGapEdgeFinalizes : Prop :=
  ∀ (l : Bool) (ts : Nat) (s : State), (l ^^ s.cfg.invertSignal) = true →
    gap s.params.W ts s.regs.lastRising > s.params.tSync →
    ∃ t u, exec (.edge l ts) s = .next t ∧ exec (.sevFinalize ts) s = .next u ∧
      t.regs = { u.regs with lastRising := ts } ∧ t.regs.frame = 0 ∧ t.regs.pos = 0 ∧
      (∀ g, t.regs.acc g = s.regs.acc g ∧ t.regs.cap g = s.regs.cap g) ∧
      (edgeSev s.params s.cfg s.regs.lastRising l ts).code = 0b110 ∧ s.SameSetup t ∧ t.answers = []

/-- R105: a falling edge appends 0 if its pulse is shorter than `T_SPLIT`, otherwise 1, and leaves `LAST_RISING`
alone. What APPEND does is stated by AppendWritesItsSlot, AppendAccumulatesAndCaptures
and AppendAdvancesOrFinalizes. -/
def Obligations.FallingEdgeAppendsClassifiedBit : Prop :=
  ∀ (l : Bool) (ts : Nat) (s : State), (l ^^ s.cfg.invertSignal) = false →
    ∃ t u, exec (.edge l ts) s = .next t ∧
      exec (.sevAppend (if gap s.params.W ts s.regs.lastRising < s.params.tSplit then false else true) ts) s = .next u ∧
      t.regs = u.regs ∧ t.regs.lastRising = s.regs.lastRising ∧
      (edgeSev s.params s.cfg s.regs.lastRising l ts).code =
        (if gap s.params.W ts s.regs.lastRising < s.params.tSplit then 0b010 else 0b011) ∧
      s.SameSetup t ∧ t.answers = []

/-- R101: every EDGE produces exactly one semantic event, and the cases of R100 say which. -/
def Obligations.EdgeClassificationIsTotal : Prop :=
  ∀ (p : Params) (c : Cfg) (lr : Nat) (l : Bool) (ts : Nat),
    (edgeSev p c lr l ts = .finalize ↔ (l ^^ c.invertSignal) = true ∧ gap p.W ts lr > p.tSync) ∧
    (edgeSev p c lr l ts = .glitch ↔
      (l ^^ c.invertSignal) = true ∧ ¬ gap p.W ts lr > p.tSync ∧ gap p.W ts lr < p.tGlitch) ∧
    (edgeSev p c lr l ts = .second ↔
      (l ^^ c.invertSignal) = true ∧ ¬ gap p.W ts lr > p.tSync ∧ ¬ gap p.W ts lr < p.tGlitch) ∧
    (edgeSev p c lr l ts = .append false ↔ (l ^^ c.invertSignal) = false ∧ gap p.W ts lr < p.tSplit) ∧
    (edgeSev p c lr l ts = .append true ↔ (l ^^ c.invertSignal) = false ∧ ¬ gap p.W ts lr < p.tSplit)

/-- R10, R100 (D2), R205: a gap is taken modulo 2^W, so moving the clock by any amount, also across the wrap, classifies
every edge the same; without a wrap it is the true difference, and with one it is 2^W less the shortfall. -/
def Obligations.ClassificationSurvivesClockWrap : Prop :=
  ∀ (p : Params) (c : Cfg) (lr : Nat) (l : Bool) (ts k : Nat),
    edgeSev p c ((lr + k) % 2 ^ p.W) l ((ts + k) % 2 ^ p.W) = edgeSev p c lr l ts ∧
    (lr ≤ ts → ts < 2 ^ p.W → gap p.W ts lr = ts - lr) ∧
    (ts < lr → lr < 2 ^ p.W → gap p.W ts lr = 2 ^ p.W - (lr - ts))

/-- R79: `obs_valid = 1` exactly in the step of an EDGE, with `obs_raw = L` and `obs_active = L ^ INVERT_SIGNAL`; and
the observer output is never read: whatever it holds, every step is the same. -/
def Obligations.ObserverPulsesExactlyOnEdge : Prop :=
  (∀ s t : State, step s = .next t →
    (t.obs.valid = true ↔
      ∃ x rest l ts, s.inputs = x :: rest ∧ inputInstr s.params.W x.input = some (.edge l ts)) ∧
    (∀ x rest l ts, s.inputs = x :: rest → inputInstr s.params.W x.input = some (.edge l ts) →
      t.obs.raw = l ∧ t.obs.active = (l ^^ s.cfg.invertSignal))) ∧
  (∀ (s : State) (o : Observer), step { s with obs := o } = step s)

/-! ### APPEND, GLITCH, SECOND -/

/-- R120, R121, R124 below slot 59: the slot write in both modes, the advance, and every register but the slot, the
parity flags and `POS` unchanged. The parity flags are stated by AppendAccumulatesAndCaptures. -/
def Obligations.AppendWritesItsSlot : Prop :=
  ∀ (v : Bool) (ts : Nat) (s : State), s.regs.pos < 59 →
    ∃ t, exec (.sevAppend v ts) s = .next t ∧
      (∀ q, q < 64 → slot t.regs.frame q =
        if q = s.regs.pos.toNat then
          (if s.cfg.frameWrite = .assign then v else (slot s.regs.frame q || v))
        else slot s.regs.frame q) ∧
      t.regs.pos.toNat = s.regs.pos.toNat + 1 ∧
      t.regs.lastRising = s.regs.lastRising ∧ t.regs.time = s.regs.time ∧
      t.regs.lastFinalize = s.regs.lastFinalize ∧ s.SameSetup t ∧ t.answers = []

/-- R122, R123: at every position, an APPEND at a start slot (21, 29, 36) sets that segment's accumulator to the bit, at
any other slot of the segment XORs the bit in, and elsewhere leaves it; an APPEND at an end slot (28, 35, 58) copies the
accumulator into the capture, the bit itself not folded in. Rewinding to a start slot by a GLITCH resets nothing. -/
def Obligations.AppendAccumulatesAndCaptures : Prop :=
  ∀ (v : Bool) (ts : Nat) (s : State),
    ∃ t, exec (.sevAppend v ts) s = .next t ∧
      t.regs.accMin = (if s.regs.pos = 21 then v
        else if 22 ≤ s.regs.pos ∧ s.regs.pos ≤ 27 then (s.regs.accMin ^^ v) else s.regs.accMin) ∧
      t.regs.accHour = (if s.regs.pos = 29 then v
        else if 30 ≤ s.regs.pos ∧ s.regs.pos ≤ 34 then (s.regs.accHour ^^ v) else s.regs.accHour) ∧
      t.regs.accDate = (if s.regs.pos = 36 then v
        else if 37 ≤ s.regs.pos ∧ s.regs.pos ≤ 57 then (s.regs.accDate ^^ v) else s.regs.accDate) ∧
      t.regs.capMin = (if s.regs.pos = 28 then s.regs.accMin else s.regs.capMin) ∧
      t.regs.capHour = (if s.regs.pos = 35 then s.regs.accHour else s.regs.capHour) ∧
      t.regs.capDate = (if s.regs.pos = 58 then s.regs.accDate else s.regs.capDate) ∧
      ∃ u, exec (.sevGlitch ts) s = .next u ∧ ∀ g, u.regs.acc g = s.regs.acc g ∧ u.regs.cap g = s.regs.cap g

/-- R124: APPEND increments `POS`; at slot 59 it writes the slot and performs FINALIZE with its own timestamp in the same
step, on the frame that includes slot 59 as just written, so that 60 is never visible. -/
def Obligations.AppendAdvancesOrFinalizes : Prop :=
  ∀ (v : Bool) (ts : Nat) (s : State) (f : FrameWord),
    (∀ q, q < 64 → slot f q =
      if q = 59 then (if s.cfg.frameWrite = .assign then v else (slot s.regs.frame q || v))
      else slot s.regs.frame q) →
    ∃ t, exec (.sevAppend v ts) s = .next t ∧
      (s.regs.pos < 59 → t.regs.pos = s.regs.pos + 1) ∧
      (s.regs.pos = 59 → t.regs.frame = 0 ∧ t.regs.pos = 0 ∧ s.SameSetup t ∧ t.answers = [] ∧
        ∃ u, exec (.sevFinalize ts) { s with regs := { s.regs with frame := f } } = .next u ∧ t.regs = u.regs)

/-- R125: GLITCH writes `POS` only: "decrements position by 1, floored at 0". -/
def Obligations.GlitchEventRewindsPositionOnly : Prop :=
  ∀ (ts : Nat) (s : State),
    ∃ t, exec (.sevGlitch ts) s = .next t ∧
      t.regs = { s.regs with pos := if s.regs.pos = 0 then 0 else s.regs.pos - 1 } ∧
      s.SameSetup t ∧ t.answers = []

/-- R126: the event SECOND changes no slot, accumulator, capture or `POS`. Presented by itself it writes `LAST_RISING`,
as R104 does (log 8). -/
def Obligations.SecondEventWritesLastRisingOnly : Prop :=
  ∀ (ts : Nat) (s : State),
    ∃ t, exec (.sevSecond ts) s = .next t ∧ t.regs = { s.regs with lastRising := ts } ∧
      s.SameSetup t ∧ t.answers = []

/-! ### FINALIZE -/

/-- R140, R141, R143, R144, R147: when all three captures match their parity slots, all seven decoded-time registers are
written, `LAST_FINALIZE` takes the timestamp, the frame and `POS` are cleared, and nothing else changes. That
`LAST_RISING` is left alone by the event presented by itself is log 8. -/
def Obligations.FinalizePublishesWhenParityMatches : Prop :=
  ∀ (now : Nat) (s : State),
    s.regs.capMin = s.regs.frame.getLsbD 28 → s.regs.capHour = s.regs.frame.getLsbD 35 →
    s.regs.capDate = s.regs.frame.getLsbD 58 →
    ∃ t, exec (.sevFinalize now) s = .next t ∧
      t.regs = { s.regs with
        frame := 0, pos := 0, lastFinalize := now
        time :=
          { second := 0
            minute := bcd2dec ((s.regs.frame.extractLsb' 21 7).setWidth 8)
            hour := bcd2dec ((s.regs.frame.extractLsb' 29 6).setWidth 8)
            day := bcd2dec ((s.regs.frame.extractLsb' 36 6).setWidth 8)
            weekday := bcd2dec ((s.regs.frame.extractLsb' 42 3).setWidth 8)
            month := bcd2dec ((s.regs.frame.extractLsb' 45 5).setWidth 8)
            year := bcd2dec ((s.regs.frame.extractLsb' 50 8).setWidth 8) } } ∧
      s.SameSetup t ∧ t.answers = []

/-- R143, R145: when a capture differs from its parity slot, no decoded-time register is written, `SECOND` included;
`LAST_FINALIZE` is refreshed under ANY_FINALIZE and kept under SUCCESS_ONLY, the frame and `POS` are cleared, and nothing
else changes. That `LAST_RISING` is left alone by the event presented by itself is log 8. -/
def Obligations.FinalizeDiscardsOnMismatch : Prop :=
  ∀ (now : Nat) (s : State),
    (s.regs.capMin ≠ s.regs.frame.getLsbD 28 ∨ s.regs.capHour ≠ s.regs.frame.getLsbD 35 ∨
      s.regs.capDate ≠ s.regs.frame.getLsbD 58) →
    ∃ t, exec (.sevFinalize now) s = .next t ∧
      t.regs = { s.regs with
        frame := 0, pos := 0
        lastFinalize := if s.cfg.refreshPolicy = .anyFinalize then now else s.regs.lastFinalize } ∧
      s.SameSetup t ∧ t.answers = []

/-- R146, R147: every finalize, successful or not, clears the frame and `POS` and leaves the accumulators and the captures
alone; `LAST_FINALIZE <- now` always under ANY_FINALIZE, and only when all three captures match under SUCCESS_ONLY. -/
def Obligations.EveryFinalizeClearsAndRefreshes : Prop :=
  ∀ (now : Nat) (s : State),
    ∃ t, exec (.sevFinalize now) s = .next t ∧ t.regs.frame = 0 ∧ t.regs.pos = 0 ∧
      (∀ g, t.regs.acc g = s.regs.acc g ∧ t.regs.cap g = s.regs.cap g) ∧
      (s.cfg.refreshPolicy = .anyFinalize → t.regs.lastFinalize = now) ∧
      (s.cfg.refreshPolicy = .successOnly → t.regs.lastFinalize =
        if s.regs.capMin = s.regs.frame.getLsbD 28 ∧ s.regs.capHour = s.regs.frame.getLsbD 35 ∧
          s.regs.capDate = s.regs.frame.getLsbD 58 then now else s.regs.lastFinalize)

/-- R142: `bcd2dec(b) = b - (b // 16) * 6` exactly, never negative, equal to `10 * (b // 16) + (b mod 16)`, for every
8-bit value, nibbles above 9 included. -/
def Obligations.BcdConversionIsExact : Prop :=
  ∀ b : Byte,
    (b.toNat / 16) * 6 ≤ b.toNat ∧
    (bcd2dec b).toNat = b.toNat - (b.toNat / 16) * 6 ∧
    (bcd2dec b).toNat = 10 * (b.toNat / 16) + b.toNat % 16 ∧
    (b < 16 → bcd2dec b = b)

/-- R151: "decode(encode(d)) == d", and `bcd(d)` fits its field's width. -/
def Obligations.BcdRoundTrip : Prop :=
  ∀ d : Byte, d ≤ 99 →
    bcd2dec (bcdEncode d) = d ∧ (d ≤ 59 → bcdEncode d < 128) ∧ (d ≤ 31 → bcdEncode d < 64) ∧
      (d ≤ 12 → bcdEncode d < 32)

/-- R151: the published values lie in the listed ranges, for any frame. -/
def Obligations.PublishedValuesInRange : Prop :=
  ∀ f : FrameWord, (decodeFrame f).second = 0 ∧ (decodeFrame f).minute ≤ 85 ∧ (decodeFrame f).hour ≤ 45 ∧
    (decodeFrame f).day ≤ 45 ∧ (decodeFrame f).weekday ≤ 7 ∧ (decodeFrame f).month ≤ 25 ∧
    (decodeFrame f).year ≤ 165

/-- R81: slots 0 to 20 and slot 59 never affect validation or the published time. -/
def Obligations.IgnoredSlotsNeverMatter : Prop :=
  ∀ (r : Regs) (c : Cfg) (now : Nat) (f : FrameWord),
    (∀ q, 21 ≤ q → q ≤ 58 → slot f q = slot r.frame q) →
    { r with frame := f }.finalize c now = r.finalize c now

/-! ### Queries and TICK -/

/-- R76, R160: GET_TIME returns the seven decoded-time registers, each in its byte of `q_time`, and changes no
register. -/
def Obligations.GetTimePacksDecodedTime : Prop :=
  ∀ (now : Nat) (s : State),
    ∃ t q, exec (.getTime now) s = .next t ∧ t.answers = [.time q] ∧
      q.extractLsb' 0 8 = s.regs.time.second ∧ q.extractLsb' 8 8 = s.regs.time.minute ∧
      q.extractLsb' 16 8 = s.regs.time.hour ∧ q.extractLsb' 24 8 = s.regs.time.day ∧
      q.extractLsb' 32 8 = s.regs.time.weekday ∧ q.extractLsb' 40 8 = s.regs.time.month ∧
      q.extractLsb' 48 8 = s.regs.time.year ∧ t.regs = s.regs ∧ s.SameSetup t

/-- R161: SYNCED is true exactly when `DAY` and `MONTH` are not 0 and the age modulo 2^W is at most `T_FRESH`, and it
changes no register. -/
def Obligations.SyncedIsTheFreshnessFormula : Prop :=
  ∀ (now : Nat) (s : State),
    ∃ t b, exec (.synced now) s = .next t ∧ t.answers = [.synced b] ∧
      (b = true ↔ s.regs.time.day ≠ 0 ∧ s.regs.time.month ≠ 0 ∧
        ((now : Int) - (s.regs.lastFinalize : Int)) % ((2 ^ s.params.W : Nat) : Int) ≤ (s.params.tFresh : Int)) ∧
      t.regs = s.regs ∧ s.SameSetup t

/-- R30, R31: a query's answer depends on the decoded time and `LAST_FINALIZE` alone: the hidden registers cannot be
read. -/
def Obligations.QueriesReadOnlyOutputRegisters : Prop :=
  ∀ (q : Instr) (s s' t t' : State), Instr.isQuery q →
    s'.regs.time = s.regs.time → s'.regs.lastFinalize = s.regs.lastFinalize → s'.params = s.params →
    exec q s = .next t → exec q s' = .next t' → t'.answers = t.answers

/-- R57, R163: a query placed before a command changes nothing the command does, and a query placed before another query
changes nothing the other returns. Queries in the same step as a command (or a reset, or an idle step), any number of
them, change nothing of the step either, and each returns what it returns by itself at the boundary it reads, before or
after the step: asked again at the same boundary, it returns the same. That a step's queries stand in its stimulus, each
with the boundary that the environment has it read, is the model's choice (log 4), and so is that a query in a reset's own
step is answered before or after the reset as in any step (log 5). -/
def Obligations.QueriesDisturbNothing : Prop :=
  (∀ (q i : Instr) (s s1 s2 t : State), Instr.isQuery q →
    exec q s = .next s1 → exec i s1 = .next s2 → exec i s = .next t →
    s2.regs = t.regs ∧ s2.answers = t.answers ∧ s2.cfg = t.cfg ∧ s2.params = t.params) ∧
  (∀ (s t : State) (c : Cfg) (x : Input) (qs : List Query) (rest : List Stimulus),
    s.inputs = { cfg := c, input := x, queries := qs } :: rest →
    step { s with inputs := { cfg := c, input := x } :: rest } = .next t →
    ∃ as, step s = .next { t with answers := t.answers ++ as } ∧
      List.Forall₂ (fun (q : Query) (a : Answer) =>
        ∃ u, exec (decodeQuery s.params.W q.word)
            (match q.boundary with | .before => { s with inputs := rest } | .after => t) = .next u ∧
          u.answers = [a]) qs as)

/-- R74, R162: TICK writes `SECOND <- TICK_FN(SECOND)` and nothing else, for the open parameter `TICK_FN`, and reads no
timestamp. -/
def Obligations.TickWritesSecondOnly : Prop :=
  ∀ (ts : Nat) (s : State),
    (∃ t, exec (.tick ts) s = .next t ∧
      t.regs = { s.regs with time := { s.regs.time with second := Config.tickFn s.regs.time.second } } ∧
      t.obs.valid = false ∧ s.SameSetup t ∧ t.answers = []) ∧
    ∀ ts' : Nat, exec (.tick ts') s = exec (.tick ts) s

/-! ### Reserved codes -/

/-- R73: "a model refuses a command word with a reserved opcode". -/
def Obligations.ReservedCommandsAreRefused : Prop :=
  (∀ (s : State) (cw : Nat) (qs : List Query) (rest : List Stimulus),
    s.inputs = { cfg := s.cfg, input := .command cw, queries := qs } :: rest →
    (cmdOp cw = 0b011 ∨ 0b100 ≤ cmdOp cw) →
    step s = .refused (.reservedCommand (cmdOp cw))) ∧
  (∀ (s : State) (ts : Nat) (low : BitVec 2),
    exec (.reserved011 ts) s = .refused (.reservedCommand 0b011) ∧
    exec (.reserved1xx low ts) s = .refused (.reservedCommand (1#1 ++ low)))

/-- R78: the codes `001`, `101` and `111` are never produced, and a model that exposes `SEV` refuses them. -/
def Obligations.ReservedEventsAreRefused : Prop :=
  (∀ (p : Params) (c : Cfg) (lr : Nat) (l : Bool) (ts : Nat),
    (edgeSev p c lr l ts).code ≠ 0b001 ∧ (edgeSev p c lr l ts).code ≠ 0b101 ∧
      (edgeSev p c lr l ts).code ≠ 0b111) ∧
  (∀ (s : State) (ts : Nat),
    exec (.sevReserved001 ts) s = .refused (.reservedSev 0b001) ∧
    exec (.sevReserved101 ts) s = .refused (.reservedSev 0b101) ∧
    exec (.sevReserved111 ts) s = .refused (.reservedSev 0b111))

/-! ### Whole-machine rules -/

/-- R22, R21, R151, R32: every step keeps `POS` at most 59, `FRAME[63:60]` at 0, the calendar registers in the ranges
a FINALIZE can publish, and (R25, R27) the two timestamp registers within `W` bits. -/
def Obligations.EveryStepKeepsInv : Prop :=
  ∀ s t : State, s.Inv → step s = .next t → t.Inv

/-- The reset state meets the invariant of EveryStepKeepsInv. -/
def Obligations.ResetMeetsInv : Prop := State.reset.Inv

/-- R32 item 3 (R23, R24): an accumulator changes only in an APPEND at a slot of its segment, a capture only in an
APPEND at its end slot; a reset apart. -/
def Obligations.ParityFlagsChangeOnlyInTheirSegment : Prop :=
  ∀ (s t : State) (g : Seg), step s = .next t →
    ¬ s.resetNext →
    (t.regs.acc g ≠ s.regs.acc g →
      segStart g ≤ s.regs.pos.toNat ∧ s.regs.pos.toNat < segEnd g ∧
        ∃ v ts, t.regs = s.regs.append s.cfg v ts) ∧
    (t.regs.cap g ≠ s.regs.cap g →
      s.regs.pos.toNat = segEnd g ∧ t.regs.cap g = s.regs.acc g ∧
        ∃ v ts, t.regs = s.regs.append s.cfg v ts)

/-- R32 item 4 (R26, R144, R162): in a step that is no reset the six calendar registers are all unchanged, or all seven
decoded-time registers are written by one successful FINALIZE of a frame that keeps slots 0 to 58 as they stand. -/
def Obligations.CalendarMovesAsOneUnit : Prop :=
  ∀ s t : State, step s = .next t →
    ¬ s.resetNext →
    (t.regs.time.minute = s.regs.time.minute ∧ t.regs.time.hour = s.regs.time.hour ∧
      t.regs.time.day = s.regs.time.day ∧ t.regs.time.weekday = s.regs.time.weekday ∧
      t.regs.time.month = s.regs.time.month ∧ t.regs.time.year = s.regs.time.year) ∨
    (t.regs.time = decodeFrame s.regs.frame ∧ s.regs.parityOk = true ∧
      t.regs.frame = 0 ∧ t.regs.pos = 0)

/-- R148, R146, R27: in a step that is no reset, `LAST_FINALIZE` changes only in a FINALIZE, to the timestamp presented in
that step; under SUCCESS_ONLY only in a successful one. -/
def Obligations.LastFinalizeIsTheFinalizeTime : Prop :=
  ∀ s t : State, step s = .next t →
    ¬ s.resetNext →
    t.regs.lastFinalize ≠ s.regs.lastFinalize →
    ∃ x rest i, s.inputs = x :: rest ∧ inputInstr s.params.W x.input = some i ∧
      eventTime i = some t.regs.lastFinalize ∧ t.regs.frame = 0 ∧ t.regs.pos = 0 ∧
      (s.cfg.refreshPolicy = .successOnly → s.regs.parityOk = true ∧ t.regs.time = decodeFrame s.regs.frame)

/-- R25, R103, R105: in a step that is no reset, `LAST_RISING` changes only in a rising edge classified SECOND or
FINALIZE, or in the event SECOND presented by itself (log 8), to the timestamp of that step. -/
def Obligations.LastRisingMovesOnlyOnAcceptedEdges : Prop :=
  ∀ s t : State, step s = .next t →
    ¬ s.resetNext →
    t.regs.lastRising ≠ s.regs.lastRising →
    ∃ x rest, s.inputs = x :: rest ∧
      (inputInstr s.params.W x.input = some (.sevSecond t.regs.lastRising) ∨
        ∃ l, inputInstr s.params.W x.input = some (.edge l t.regs.lastRising) ∧
          (edgeSev s.params s.cfg s.regs.lastRising l t.regs.lastRising = .second ∨
            edgeSev s.params s.cfg s.regs.lastRising l t.regs.lastRising = .finalize))

/-- R129: the accumulators' values at the start of a frame never reach a capture: after any sequence of events from
`POS = 0`, every register but the accumulators is the same whatever they held. -/
def Obligations.StaleAccumulatorsNeverReachACapture : Prop :=
  ∀ (c : Cfg) (es : List (Sev × Nat)) (r : Regs) (a b d : Bool), r.pos = 0 →
    (Regs.run c es (r.withAccs a b d)).withAccs false false false =
      (Regs.run c es r).withAccs false false false

/-- R127: whatever glitches come between, the capture taken at a segment's end slot is the XOR of the bits appended in the
segment since the last APPEND at its start slot, re-appended slots counted again. -/
def Obligations.CaptureIsXorOfSegmentAppends : Prop :=
  ∀ (c : Cfg) (g : Seg) (es : List (Sev × Nat)) (r : Regs) (v : Bool) (ts : Nat),
    r.pos = 0 → (Regs.run c es r).pos.toNat = segEnd g →
    ((Regs.run c es r).append c v ts).cap g = xorAll (Regs.logAfter c g es r [])

/-- R51, R127, R149: appending `n` bits to a cleared frame with no glitch puts bit `p` into slot `p`; a segment whose end
slot was reached has the XOR of its slots captured, and any other keeps its capture. -/
def Obligations.GlitchFreeFrameIsReceived : Prop :=
  ∀ (c : Cfg) (ts : Nat) (bs : List Bool) (r : Regs),
    r.pos = 0 → r.frame = 0 → bs.length ≤ 59 →
    (r.appendAll c ts bs).pos.toNat = bs.length ∧
    (∀ q, q < 64 → slot (r.appendAll c ts bs).frame q = bs.getD q false) ∧
    (∀ g, segEnd g < bs.length →
      (r.appendAll c ts bs).cap g = segXor (r.appendAll c ts bs).frame g) ∧
    (∀ g, bs.length ≤ segEnd g → (r.appendAll c ts bs).cap g = r.cap g)

/-- R149, R143: a frame received without glitches, partial or whole, passes exactly when every reached segment's parity
slot is the XOR of its segment and every unreached segment's stale capture is 0. -/
def Obligations.GlitchFreeFramePassesIff : Prop :=
  ∀ (c : Cfg) (ts : Nat) (bs : List Bool) (r : Regs),
    r.pos = 0 → r.frame = 0 → bs.length ≤ 59 →
    ((r.appendAll c ts bs).parityOk = true ↔
      ∀ g, (segEnd g < bs.length →
          slot (r.appendAll c ts bs).frame (segEnd g) = segXor (r.appendAll c ts bs).frame g) ∧
        (bs.length ≤ segEnd g → r.cap g = false))

/-- R128: a slot inside a segment, not its start slot, written with `v1`, rewound, and written with `v2`: its final value
in both modes, and its contribution `v1 ^ v2` to the accumulator. -/
def Obligations.RewrittenSlotTable : Prop :=
  ∀ (c : Cfg) (g : Seg) (v1 v2 : Bool) (t1 t2 : Nat) (r : Regs),
    segStart g < r.pos.toNat → r.pos.toNat < segEnd g → slot r.frame r.pos.toNat = false →
    slot (((r.append c v1 t1).glitch).append c v2 t2).frame r.pos.toNat =
      (if c.frameWrite = .assign then v2 else (v1 || v2)) ∧
    (((r.append c v1 t1).glitch).append c v2 t2).acc g = (r.acc g ^^ (v1 ^^ v2)) ∧
    (((r.append c v1 t1).glitch).append c v2 t2).pos = r.pos + 1

/-- R149, R207: a FINALIZE of an empty frame publishes all 0 when all three captures are 0, so SYNCED becomes false, and
leaves the time alone when any capture is 1. -/
def Obligations.EmptyFrameZeroesOrKeepsTime : Prop :=
  ∀ (r : Regs) (c : Cfg) (now : Nat), r.frame = 0 →
    (r.capMin = false → r.capHour = false → r.capDate = false →
      (r.finalize c now).time = DecodedTime.zero ∧
        ∀ p later, isSynced p (r.finalize c now) later = false) ∧
    ((r.capMin = true ∨ r.capHour = true ∨ r.capDate = true) → (r.finalize c now).time = r.time)

/-- R208: under ANY_FINALIZE a failed FINALIZE refreshes the age, so SYNCED is true from it for `T_FRESH` while `DAY` and
`MONTH` stay non-zero; under SUCCESS_ONLY it leaves SYNCED as it was. -/
def Obligations.FailedFinalizeAndFreshness : Prop :=
  ∀ (r : Regs) (c : Cfg) (p : Params) (now later : Nat), r.parityOk = false →
    (c.refreshPolicy = .anyFinalize → r.time.day ≠ 0 → r.time.month ≠ 0 → gap p.W later now ≤ p.tFresh →
      isSynced p (r.finalize c now) later = true) ∧
    (c.refreshPolicy = .successOnly → isSynced p (r.finalize c now) later = isSynced p r later)

/-- R203: the first rising edge after reset: a sync gap above `T_SYNC`, which finalizes the empty frame with no visible
change but `LAST_FINALIZE` and `LAST_RISING`; a glitch below `T_GLITCH`, which changes nothing; else a second. -/
def Obligations.FirstRisingEdgeAfterReset : Prop :=
  ∀ ts : Nat, ts < 2 ^ State.reset.params.W →
    ∃ t, exec (.edge true ts) State.reset = .next t ∧
      (ts > 1200 → t.regs = { Regs.reset with lastRising := ts, lastFinalize := ts } ∧
        ∀ p later, isSynced p t.regs later = false) ∧
      (ts < 300 → t.regs = Regs.reset) ∧
      (300 ≤ ts → ts ≤ 1200 → t.regs = { Regs.reset with lastRising := ts })

/-- R204, R205: under the caller's contract of non-decreasing event times no gap is ever taken across a wrap, and every
step keeps it so. -/
def Obligations.NonDecreasingClockIsKept : Prop :=
  ∀ s : State, s.ClockKept →
    (∀ t, step s = .next t → t.ClockKept) ∧
    (∀ x rest i ts, s.inputs = x :: rest → inputInstr s.params.W x.input = some i → eventTime i = some ts →
      gap s.params.W ts s.regs.lastRising = ts - s.regs.lastRising ∧ s.regs.lastRising ≤ ts)

/-- R180, R182: while the environment presents no reserved code and changes the configuration only with a reset, no step
faults or is refused, for ever. -/
def Obligations.AdmissibleRunsNeverStop : Prop :=
  ∀ (k : Nat) (s : State), admissible s.params.W s.cfg s.inputs = true →
    ∃ t, Host.Core.run Sys2Proof.core k s = .next t

/-- L1-2 of spec/95_test_vectors.md (R85, R87, R100, R120, R140 to R144): the 59 pulses of a broadcast minute and the
rising edge that ends its sync gap, from any state with the default thresholds, any timestamp width of at least 17, and a
cleared frame whose last accepted rising edge makes the first one a second boundary: the decoded time is exactly the
encoded one, whatever the ignored slots hold, whatever the configuration, whatever the captures and accumulators held,
also when the clock wraps in the minute. -/
def Obligations.BroadcastMinuteIsDecoded : Prop :=
  ∀ (s : State) (unused : BitVec 21) (t : DecodedTime) (W : Nat) (t0 : Nat) (rest : List Stimulus),
    s.params = { W := W } → 17 ≤ W → s.regs.pos = 0 → s.regs.frame = 0 → t.correct = true →
    300 ≤ gap W t0 s.regs.lastRising → gap W t0 s.regs.lastRising ≤ 1200 →
    s.inputs = programStimuli s.cfg [.minute (telegram unused t) t0, .rise (t0 + 60000)] ++ rest →
    ∃ u, Host.Core.run Sys2Proof.core 119 s = .next u ∧ u.regs.time = t ∧
      u.regs.lastFinalize = (t0 + 60000) % 2 ^ W ∧ u.regs.lastRising = (t0 + 60000) % 2 ^ W ∧
      u.regs.frame = 0 ∧ u.regs.pos = 0 ∧ u.inputs = rest

/-- L1-3 of spec/95_test_vectors.md (R123, R127, R143): of a correct telegram with one slot flipped, received without
glitches, the finalize fails and leaves the time alone for every slot from 21 to 58, and publishes the encoded time for
every slot from 0 to 20. -/
def Obligations.SingleBitFlipIsRejected : Prop :=
  ∀ (c : Cfg) (r : Regs) (unused : BitVec 21) (t : DecodedTime) (b : Nat) (ts now : Nat),
    r.pos = 0 → r.frame = 0 → t.correct = true →
    (21 ≤ b → b ≤ 58 →
      ((r.appendAll c ts (frameBits (telegram unused t ^^^ (1#64 <<< b)) 59)).finalize c now).time = r.time) ∧
    (b ≤ 20 →
      ((r.appendAll c ts (frameBits (telegram unused t ^^^ (1#64 <<< b)) 59)).finalize c now).time = t)

/-- R180, R182, R204, R212: the environment's contract as an invariant of the step: from every state whose inputs keep it, a
step answers a next state, and the inputs still to come keep it from the configuration then latched. -/
def Obligations.AdmissibleStepKeepsContract : Prop :=
  ∀ s : State, admissible s.params.W s.cfg s.inputs = true →
    ∃ t, step s = .next t ∧ admissible t.params.W t.cfg t.inputs = true
end

