-- ==== Sys2Proof/Laws/Bits.lean ====
section
/-!
SUPPORT. Taking a field out of a concatenation, of bit vectors and of words held as numbers: what is put together is
taken apart.
-/

namespace Sys2Proof.Laws

/-- The high part of a concatenation. -/
theorem extract_high {n m : Nat} (a : BitVec n) (b : BitVec m) : (a ++ b).extractLsb' m n = a := by
  apply BitVec.eq_of_getLsbD_eq
  intro i hi
  simp [BitVec.getLsbD_append, hi]

/-- A field inside the low part of a concatenation. -/
theorem extract_low {n m : Nat} (a : BitVec n) (b : BitVec m) (s k : Nat) (h : s + k ≤ m) :
    (a ++ b).extractLsb' s k = b.extractLsb' s k := by
  apply BitVec.eq_of_getLsbD_eq
  intro i hi
  have : s + i < m := by omega
  simp [BitVec.getLsbD_append, this]

/-- A field inside the high part of a concatenation. -/
theorem extract_above {n m : Nat} (a : BitVec n) (b : BitVec m) (s k : Nat) :
    (a ++ b).extractLsb' (m + s) k = a.extractLsb' s k := by
  apply BitVec.eq_of_getLsbD_eq
  intro i hi
  have h : ¬ m + s + i < m := by omega
  have e : m + s + i - m = s + i := by omega
  simp [BitVec.getLsbD_append, hi, h, e]

/-- The whole of a word. -/
theorem extract_all {n : Nat} (a : BitVec n) : a.extractLsb' 0 n = a := by
  apply BitVec.eq_of_getLsbD_eq
  intro i hi
  simp [hi]

/-- The high part of a word held as a number. -/
theorem slice_high (a b k n : Nat) (hb : b < 2 ^ k) : slice (a * 2 ^ k + b) k n = a % 2 ^ n := by
  unfold slice
  rw [Nat.mul_comm, Nat.mul_add_div (Nat.two_pow_pos k), Nat.div_eq_of_lt hb, Nat.add_zero]

/-- A field inside the low part of a word held as a number. -/
theorem slice_low (a b k lo n : Nat) (h : lo + n ≤ k) : slice (a * 2 ^ k + b) lo n = slice b lo n := by
  unfold slice
  obtain ⟨m, rfl⟩ : ∃ m, k = lo + (n + m) := ⟨k - lo - n, by omega⟩
  have e : a * 2 ^ (lo + (n + m)) + b = 2 ^ lo * (2 ^ n * (2 ^ m * a)) + b := by
    rw [Nat.pow_add, Nat.pow_add]; ring
  rw [e, Nat.mul_add_div (Nat.two_pow_pos lo), Nat.mul_add_mod]

/-- The whole of a word held as a number. -/
theorem slice_all (v n : Nat) (h : v < 2 ^ n) : slice v 0 n = v := by
  simp [slice, Nat.mod_eq_of_lt h]

/-- A field has the width it is taken with. -/
theorem slice_lt (v lo n : Nat) : slice v lo n < 2 ^ n := Nat.mod_lt _ (Nat.two_pow_pos n)

/-- The operation code of a word held as a number. -/
theorem ofNat_slice_op {n : Nat} (a : Nat) (op : BitVec n) :
    BitVec.ofNat n (slice (a * 2 ^ n + op.toNat) 0 n) = op := by
  rw [slice_low a op.toNat n 0 n (by omega), slice_all _ _ op.isLt, BitVec.ofNat_toNat, BitVec.setWidth_eq]

end Sys2Proof.Laws
end

