-- ==== Sys2Proof/Laws/State.lean ====
section
/-!
SUPPORT. One lemma per field per update of the state and of the registers, each true by rfl, so that no later proof
unfolds a record update.
-/

namespace Sys2Proof.Machine

section
variable (s : State)

@[simp] theorem State.quiet_regs : (s.quiet).regs =
    s.regs := rfl
@[simp] theorem State.quiet_cfg : (s.quiet).cfg =
    s.cfg := rfl
@[simp] theorem State.quiet_params : (s.quiet).params =
    s.params := rfl
@[simp] theorem State.quiet_obs : (s.quiet).obs =
    { valid := false, raw := Config.dontCare s.free, active := Config.dontCare (s.free + 1) } := rfl
@[simp] theorem State.quiet_answers : (s.quiet).answers =
    s.answers := rfl
@[simp] theorem State.quiet_inputs : (s.quiet).inputs =
    s.inputs := rfl
@[simp] theorem State.quiet_free : (s.quiet).free =
    s.free + 2 := rfl

end

section
variable (s : State) (l a : Bool) (r : Regs)

@[simp] theorem State.afterEdge_regs : (s.afterEdge l a r).regs =
    r := rfl
@[simp] theorem State.afterEdge_cfg : (s.afterEdge l a r).cfg =
    s.cfg := rfl
@[simp] theorem State.afterEdge_params : (s.afterEdge l a r).params =
    s.params := rfl
@[simp] theorem State.afterEdge_obs : (s.afterEdge l a r).obs =
    { valid := true, raw := l, active := a } := rfl
@[simp] theorem State.afterEdge_answers : (s.afterEdge l a r).answers =
    [] := rfl
@[simp] theorem State.afterEdge_inputs : (s.afterEdge l a r).inputs =
    s.inputs := rfl
@[simp] theorem State.afterEdge_free : (s.afterEdge l a r).free =
    s.free := rfl

end

section
variable (s : State) (r : Regs)

@[simp] theorem State.afterEvent_regs : (s.afterEvent r).regs =
    r := rfl
@[simp] theorem State.afterEvent_cfg : (s.afterEvent r).cfg =
    s.cfg := rfl
@[simp] theorem State.afterEvent_params : (s.afterEvent r).params =
    s.params := rfl
@[simp] theorem State.afterEvent_obs : (s.afterEvent r).obs =
    { valid := false, raw := Config.dontCare s.free, active := Config.dontCare (s.free + 1) } := rfl
@[simp] theorem State.afterEvent_answers : (s.afterEvent r).answers =
    [] := rfl
@[simp] theorem State.afterEvent_inputs : (s.afterEvent r).inputs =
    s.inputs := rfl
@[simp] theorem State.afterEvent_free : (s.afterEvent r).free =
    s.free + 2 := rfl

end

section
variable (s : State) (a : Answer)

@[simp] theorem State.afterQuery_regs : (s.afterQuery a).regs =
    s.regs := rfl
@[simp] theorem State.afterQuery_cfg : (s.afterQuery a).cfg =
    s.cfg := rfl
@[simp] theorem State.afterQuery_params : (s.afterQuery a).params =
    s.params := rfl
@[simp] theorem State.afterQuery_obs : (s.afterQuery a).obs =
    { valid := false, raw := Config.dontCare s.free, active := Config.dontCare (s.free + 1) } := rfl
@[simp] theorem State.afterQuery_answers : (s.afterQuery a).answers =
    [a] := rfl
@[simp] theorem State.afterQuery_inputs : (s.afterQuery a).inputs =
    s.inputs := rfl
@[simp] theorem State.afterQuery_free : (s.afterQuery a).free =
    s.free + 2 := rfl

end

section
variable (s : State)

@[simp] theorem State.performIdle_regs : (s.performIdle).regs =
    s.regs := rfl
@[simp] theorem State.performIdle_cfg : (s.performIdle).cfg =
    s.cfg := rfl
@[simp] theorem State.performIdle_params : (s.performIdle).params =
    s.params := rfl
@[simp] theorem State.performIdle_obs : (s.performIdle).obs =
    { valid := false, raw := Config.dontCare s.free, active := Config.dontCare (s.free + 1) } := rfl
@[simp] theorem State.performIdle_answers : (s.performIdle).answers =
    [] := rfl
@[simp] theorem State.performIdle_inputs : (s.performIdle).inputs =
    s.inputs := rfl
@[simp] theorem State.performIdle_free : (s.performIdle).free =
    s.free + 2 := rfl

end

section
variable (s : State) (c : Cfg)

@[simp] theorem State.performReset_regs : (s.performReset c).regs =
    Regs.reset := rfl
@[simp] theorem State.performReset_cfg : (s.performReset c).cfg =
    c := rfl
@[simp] theorem State.performReset_params : (s.performReset c).params =
    s.params := rfl
@[simp] theorem State.performReset_obs : (s.performReset c).obs =
    { valid := false, raw := Config.dontCare s.free, active := Config.dontCare (s.free + 1) } := rfl
@[simp] theorem State.performReset_answers : (s.performReset c).answers =
    [] := rfl
@[simp] theorem State.performReset_inputs : (s.performReset c).inputs =
    s.inputs := rfl
@[simp] theorem State.performReset_free : (s.performReset c).free =
    s.free + 2 := rfl

end

section
variable (s t : State) (qs : List Query)

@[simp] theorem State.answering_regs : (s.answering t qs).regs =
    t.regs := rfl
@[simp] theorem State.answering_cfg : (s.answering t qs).cfg =
    t.cfg := rfl
@[simp] theorem State.answering_params : (s.answering t qs).params =
    t.params := rfl
@[simp] theorem State.answering_obs : (s.answering t qs).obs =
    t.obs := rfl
@[simp] theorem State.answering_answers : (s.answering t qs).answers =
    t.answers ++ qs.flatMap (fun q => (q.boundary.pick s t).ask q.word) := rfl
@[simp] theorem State.answering_inputs : (s.answering t qs).inputs =
    t.inputs := rfl
@[simp] theorem State.answering_free : (s.answering t qs).free =
    t.free := rfl
@[simp] theorem Boundary.pick_before : Boundary.before.pick s t = s := rfl
@[simp] theorem Boundary.pick_after : Boundary.after.pick s t = t := rfl
/-- Without a query in the step, the step is what the command port's instruction leaves. -/
@[simp] theorem State.answering_nil : s.answering t [] = t := by simp [State.answering]

end

section
variable (s : State) (i : Input) (qs : List Query)

@[simp] theorem State.withInput_regs : (s.withInput i qs).regs =
    s.regs := rfl
@[simp] theorem State.withInput_cfg : (s.withInput i qs).cfg =
    s.cfg := rfl
@[simp] theorem State.withInput_params : (s.withInput i qs).params =
    s.params := rfl
@[simp] theorem State.withInput_obs : (s.withInput i qs).obs =
    s.obs := rfl
@[simp] theorem State.withInput_answers : (s.withInput i qs).answers =
    s.answers := rfl
@[simp] theorem State.withInput_inputs : (s.withInput i qs).inputs =
    { cfg := s.cfg, input := i, queries := qs } :: s.inputs := rfl
@[simp] theorem State.withInput_free : (s.withInput i qs).free =
    s.free := rfl

end

section
variable (r : Regs) (p : Nat)

@[simp] theorem Regs.capture_frame : (r.capture p).frame =
    r.frame := rfl
@[simp] theorem Regs.capture_pos : (r.capture p).pos =
    r.pos := rfl
@[simp] theorem Regs.capture_accMin : (r.capture p).accMin =
    r.accMin := rfl
@[simp] theorem Regs.capture_accHour : (r.capture p).accHour =
    r.accHour := rfl
@[simp] theorem Regs.capture_accDate : (r.capture p).accDate =
    r.accDate := rfl
@[simp] theorem Regs.capture_capMin : (r.capture p).capMin =
    capNext .minute p r.accMin r.capMin := rfl
@[simp] theorem Regs.capture_capHour : (r.capture p).capHour =
    capNext .hour p r.accHour r.capHour := rfl
@[simp] theorem Regs.capture_capDate : (r.capture p).capDate =
    capNext .date p r.accDate r.capDate := rfl
@[simp] theorem Regs.capture_lastRising : (r.capture p).lastRising =
    r.lastRising := rfl
@[simp] theorem Regs.capture_time : (r.capture p).time =
    r.time := rfl
@[simp] theorem Regs.capture_lastFinalize : (r.capture p).lastFinalize =
    r.lastFinalize := rfl

end

section
variable (r : Regs) (p : Nat) (v : Bool)

@[simp] theorem Regs.accumulate_frame : (r.accumulate p v).frame =
    r.frame := rfl
@[simp] theorem Regs.accumulate_pos : (r.accumulate p v).pos =
    r.pos := rfl
@[simp] theorem Regs.accumulate_accMin : (r.accumulate p v).accMin =
    accNext .minute p v r.accMin := rfl
@[simp] theorem Regs.accumulate_accHour : (r.accumulate p v).accHour =
    accNext .hour p v r.accHour := rfl
@[simp] theorem Regs.accumulate_accDate : (r.accumulate p v).accDate =
    accNext .date p v r.accDate := rfl
@[simp] theorem Regs.accumulate_capMin : (r.accumulate p v).capMin =
    r.capMin := rfl
@[simp] theorem Regs.accumulate_capHour : (r.accumulate p v).capHour =
    r.capHour := rfl
@[simp] theorem Regs.accumulate_capDate : (r.accumulate p v).capDate =
    r.capDate := rfl
@[simp] theorem Regs.accumulate_lastRising : (r.accumulate p v).lastRising =
    r.lastRising := rfl
@[simp] theorem Regs.accumulate_time : (r.accumulate p v).time =
    r.time := rfl
@[simp] theorem Regs.accumulate_lastFinalize : (r.accumulate p v).lastFinalize =
    r.lastFinalize := rfl

end

section
variable (r : Regs) (c : Cfg) (p : Nat) (v : Bool)

@[simp] theorem Regs.appendAt_frame : (r.appendAt c p v).frame =
    writeSlot c.frameWrite r.frame p v := rfl
@[simp] theorem Regs.appendAt_pos : (r.appendAt c p v).pos =
    r.pos := rfl
@[simp] theorem Regs.appendAt_accMin : (r.appendAt c p v).accMin =
    accNext .minute p v r.accMin := rfl
@[simp] theorem Regs.appendAt_accHour : (r.appendAt c p v).accHour =
    accNext .hour p v r.accHour := rfl
@[simp] theorem Regs.appendAt_accDate : (r.appendAt c p v).accDate =
    accNext .date p v r.accDate := rfl
@[simp] theorem Regs.appendAt_capMin : (r.appendAt c p v).capMin =
    capNext .minute p r.accMin r.capMin := rfl
@[simp] theorem Regs.appendAt_capHour : (r.appendAt c p v).capHour =
    capNext .hour p r.accHour r.capHour := rfl
@[simp] theorem Regs.appendAt_capDate : (r.appendAt c p v).capDate =
    capNext .date p r.accDate r.capDate := rfl
@[simp] theorem Regs.appendAt_lastRising : (r.appendAt c p v).lastRising =
    r.lastRising := rfl
@[simp] theorem Regs.appendAt_time : (r.appendAt c p v).time =
    r.time := rfl
@[simp] theorem Regs.appendAt_lastFinalize : (r.appendAt c p v).lastFinalize =
    r.lastFinalize := rfl

end

section
variable (r : Regs)

@[simp] theorem Regs.clearFrame_frame : (r.clearFrame).frame =
    0 := rfl
@[simp] theorem Regs.clearFrame_pos : (r.clearFrame).pos =
    0 := rfl
@[simp] theorem Regs.clearFrame_accMin : (r.clearFrame).accMin =
    r.accMin := rfl
@[simp] theorem Regs.clearFrame_accHour : (r.clearFrame).accHour =
    r.accHour := rfl
@[simp] theorem Regs.clearFrame_accDate : (r.clearFrame).accDate =
    r.accDate := rfl
@[simp] theorem Regs.clearFrame_capMin : (r.clearFrame).capMin =
    r.capMin := rfl
@[simp] theorem Regs.clearFrame_capHour : (r.clearFrame).capHour =
    r.capHour := rfl
@[simp] theorem Regs.clearFrame_capDate : (r.clearFrame).capDate =
    r.capDate := rfl
@[simp] theorem Regs.clearFrame_lastRising : (r.clearFrame).lastRising =
    r.lastRising := rfl
@[simp] theorem Regs.clearFrame_time : (r.clearFrame).time =
    r.time := rfl
@[simp] theorem Regs.clearFrame_lastFinalize : (r.clearFrame).lastFinalize =
    r.lastFinalize := rfl

end

section
variable (r : Regs) (ts : Nat)

@[simp] theorem Regs.riseSecond_frame : (r.riseSecond ts).frame =
    r.frame := rfl
@[simp] theorem Regs.riseSecond_pos : (r.riseSecond ts).pos =
    r.pos := rfl
@[simp] theorem Regs.riseSecond_accMin : (r.riseSecond ts).accMin =
    r.accMin := rfl
@[simp] theorem Regs.riseSecond_accHour : (r.riseSecond ts).accHour =
    r.accHour := rfl
@[simp] theorem Regs.riseSecond_accDate : (r.riseSecond ts).accDate =
    r.accDate := rfl
@[simp] theorem Regs.riseSecond_capMin : (r.riseSecond ts).capMin =
    r.capMin := rfl
@[simp] theorem Regs.riseSecond_capHour : (r.riseSecond ts).capHour =
    r.capHour := rfl
@[simp] theorem Regs.riseSecond_capDate : (r.riseSecond ts).capDate =
    r.capDate := rfl
@[simp] theorem Regs.riseSecond_lastRising : (r.riseSecond ts).lastRising =
    ts := rfl
@[simp] theorem Regs.riseSecond_time : (r.riseSecond ts).time =
    r.time := rfl
@[simp] theorem Regs.riseSecond_lastFinalize : (r.riseSecond ts).lastFinalize =
    r.lastFinalize := rfl

end

section
variable (r : Regs) (c : Cfg) (ts : Nat)

@[simp] theorem Regs.riseSync_frame : (r.riseSync c ts).frame =
    (r.finalize c ts).frame := rfl
@[simp] theorem Regs.riseSync_pos : (r.riseSync c ts).pos =
    (r.finalize c ts).pos := rfl
@[simp] theorem Regs.riseSync_accMin : (r.riseSync c ts).accMin =
    (r.finalize c ts).accMin := rfl
@[simp] theorem Regs.riseSync_accHour : (r.riseSync c ts).accHour =
    (r.finalize c ts).accHour := rfl
@[simp] theorem Regs.riseSync_accDate : (r.riseSync c ts).accDate =
    (r.finalize c ts).accDate := rfl
@[simp] theorem Regs.riseSync_capMin : (r.riseSync c ts).capMin =
    (r.finalize c ts).capMin := rfl
@[simp] theorem Regs.riseSync_capHour : (r.riseSync c ts).capHour =
    (r.finalize c ts).capHour := rfl
@[simp] theorem Regs.riseSync_capDate : (r.riseSync c ts).capDate =
    (r.finalize c ts).capDate := rfl
@[simp] theorem Regs.riseSync_lastRising : (r.riseSync c ts).lastRising =
    ts := rfl
@[simp] theorem Regs.riseSync_time : (r.riseSync c ts).time =
    (r.finalize c ts).time := rfl
@[simp] theorem Regs.riseSync_lastFinalize : (r.riseSync c ts).lastFinalize =
    (r.finalize c ts).lastFinalize := rfl

end

section
variable (fn : Byte → Byte) (r : Regs)

@[simp] theorem tickRegs_frame : (tickRegs fn r).frame =
    r.frame := rfl
@[simp] theorem tickRegs_pos : (tickRegs fn r).pos =
    r.pos := rfl
@[simp] theorem tickRegs_accMin : (tickRegs fn r).accMin =
    r.accMin := rfl
@[simp] theorem tickRegs_accHour : (tickRegs fn r).accHour =
    r.accHour := rfl
@[simp] theorem tickRegs_accDate : (tickRegs fn r).accDate =
    r.accDate := rfl
@[simp] theorem tickRegs_capMin : (tickRegs fn r).capMin =
    r.capMin := rfl
@[simp] theorem tickRegs_capHour : (tickRegs fn r).capHour =
    r.capHour := rfl
@[simp] theorem tickRegs_capDate : (tickRegs fn r).capDate =
    r.capDate := rfl
@[simp] theorem tickRegs_lastRising : (tickRegs fn r).lastRising =
    r.lastRising := rfl
@[simp] theorem tickRegs_time : (tickRegs fn r).time =
    { r.time with second := fn r.time.second } := rfl
@[simp] theorem tickRegs_lastFinalize : (tickRegs fn r).lastFinalize =
    r.lastFinalize := rfl

end

section
variable (r : Regs)

@[simp] theorem Regs.acc_minute : r.acc .minute = r.accMin := rfl
@[simp] theorem Regs.acc_hour : r.acc .hour = r.accHour := rfl
@[simp] theorem Regs.acc_date : r.acc .date = r.accDate := rfl
@[simp] theorem Regs.cap_minute : r.cap .minute = r.capMin := rfl
@[simp] theorem Regs.cap_hour : r.cap .hour = r.capHour := rfl
@[simp] theorem Regs.cap_date : r.cap .date = r.capDate := rfl
@[simp] theorem Regs.riseGlitch_eq : r.riseGlitch = r.glitch := rfl
@[simp] theorem Regs.fallBit_eq (c : Cfg) (v : Bool) (ts : Nat) : r.fallBit c v ts = r.append c v ts := rfl

end

end Sys2Proof.Machine
end

