-- ==== Sys2Proof/Laws/Ops.lean ====
section
/-!
SUPPORT. What each shared operation does, said once: slots, fields, BCD, parity flags.
-/

namespace Sys2Proof.Machine

/-- A slot read after a slot write: the written slot takes the value, every other bit stays. -/
theorem slot_setSlot (f : FrameWord) (p q : Nat) (v : Bool) (hq : q < 64) :
    slot (setSlot f p v) q = if q = p then v else slot f q := by
  unfold setSlot slot
  by_cases h : q = p
  · subst h
    cases v <;> simp [hq]
  · rcases Nat.lt_or_gt_of_ne h with h' | h'
    · cases v <;> simp [h, h', hq]
    · have h1 : ¬ q < p := by omega
      have h2 : q - p ≠ 0 := by omega
      cases v <;> simp [h, h1, hq, h2]

/-- A slot write past the word writes nothing. -/
theorem setSlot_of_ge (f : FrameWord) (p : Nat) (v : Bool) (hp : 64 ≤ p) : setSlot f p v = f := by
  have h : (1#64 <<< p) = 0#64 := by
    apply BitVec.eq_of_getLsbD_eq
    intro i hi
    simp
    omega
  cases v
  · have h' : ~~~0#64 = BitVec.allOnes 64 := rfl
    simp only [setSlot, h, h', BitVec.and_allOnes, Bool.false_eq_true, if_false]
  · simp [setSlot, h]

/-- A slot read after the slot write of an APPEND (R121). -/
theorem slot_writeSlot (m : FrameWrite) (f : FrameWord) (p q : Nat) (v : Bool) (hq : q < 64) :
    slot (writeSlot m f p v) q =
      if q = p then (match m with | .assign => v | .or => slot f q || v) else slot f q := by
  cases m
  · simpa [writeSlot] using slot_setSlot f p q v hq
  · by_cases h : q = p
    · subst h
      simpa [writeSlot] using slot_setSlot f q q (slot f q || v) hq
    · simpa [writeSlot, h] using slot_setSlot f p q (slot f p || v) hq

/-- A frame write at a slot of the frame leaves bits 60 to 63 alone (R21). -/
theorem topBits_writeSlot (m : FrameWrite) (f : FrameWord) (p : Nat) (v : Bool) (hp : p < 60) :
    (writeSlot m f p v).extractLsb' 60 4 = f.extractLsb' 60 4 := by
  apply BitVec.eq_of_getLsbD_eq
  intro i hi
  have h : 60 + i ≠ p := by omega
  have key := slot_writeSlot m f p (60 + i) v (by omega)
  simp only [h, if_false, slot] at key
  simp [hi, key]

/-- Two frame words with equal slots are equal. -/
theorem frame_ext (f g : FrameWord) (h : ∀ q, q < 64 → slot f q = slot g q) : f = g :=
  BitVec.eq_of_getLsbD_eq h

/-- The empty frame reads 0 at every slot. -/
@[simp] theorem slot_zero (q : Nat) : slot 0#64 q = false := by simp [slot]

/-- The numeric value of a BCD conversion (R142): `10 * (b // 16) + (b mod 16)`. -/
theorem toNat_bcd2dec (b : Byte) : (bcd2dec b).toNat = 10 * (b.toNat / 16) + b.toNat % 16 := by
  revert b; decide

/-- A field of width `w` is below `2 ^ w` (R82). -/
theorem toNat_field_lt (f : FrameWord) (o w : Nat) : (field f o w).toNat < 2 ^ w := by
  unfold field
  rw [BitVec.toNat_setWidth]
  exact Nat.lt_of_le_of_lt (Nat.mod_le _ _) (BitVec.isLt _)

/-- Below 16 the BCD conversion is the identity (R83, R142). -/
theorem bcd2dec_of_lt (b : Byte) (h : b.toNat < 16) : bcd2dec b = b := by
  apply BitVec.eq_of_toNat_eq
  rw [toNat_bcd2dec]
  omega

/-- A gap has `W` bits (R10). -/
theorem gap_lt (W : Nat) (a b : Nat) : gap W a b < 2 ^ W := by
  have h : (0 : Int) < ((2 ^ W : Nat) : Int) := Int.natCast_pos.mpr (Nat.two_pow_pos W)
  have h1 := Int.emod_lt_of_pos ((a : Int) - b) h
  have h2 := Int.emod_nonneg ((a : Int) - b) (Int.ne_of_gt h)
  unfold gap
  omega

/-- A gap taken without a wrap is the true difference (R10). -/
theorem gap_of_le (W : Nat) (a b : Nat) (h : b ≤ a) (hw : a - b < 2 ^ W) : gap W a b = a - b := by
  unfold gap
  rw [Int.emod_eq_of_lt (by omega) (by omega)]
  omega

/-- A gap taken across a wrap is 2^W less the shortfall (R10, R205). -/
theorem gap_of_lt (W : Nat) (a b : Nat) (h : a < b) (hb : b < 2 ^ W) : gap W a b = 2 ^ W - (b - a) := by
  unfold gap
  rw [← Int.add_emod_right, Int.emod_eq_of_lt (by omega) (by omega)]
  omega

/-- A gap depends on its timestamps modulo 2^W alone (D2). -/
@[simp] theorem gap_mod_left (W : Nat) (a b : Nat) : gap W (a % 2 ^ W) b = gap W a b := by
  unfold gap
  rw [Int.natCast_mod, Int.emod_sub_emod]

/-- A gap depends on its timestamps modulo 2^W alone (D2). -/
@[simp] theorem gap_mod_right (W : Nat) (a b : Nat) : gap W a (b % 2 ^ W) = gap W a b := by
  unfold gap
  rw [Int.natCast_mod, Int.sub_emod_emod]

/-- Moving both timestamps leaves the gap (D2). -/
@[simp] theorem gap_add_right (W : Nat) (a b k : Nat) : gap W (a + k) (b + k) = gap W a b := by
  unfold gap
  congr 2
  omega

@[simp] theorem accNext_at_start (g : Seg) (v a : Bool) : accNext g (segStart g) v a = v := by simp [accNext]

/-- Inside a segment, past its start slot, an APPEND XORs its bit in (R122). -/
theorem accNext_inside (g : Seg) (p : Nat) (v a : Bool) (h1 : segStart g < p) (h2 : p < segEnd g) :
    accNext g p v a = (a ^^ v) := by
  simp [accNext, h1, h2, Nat.ne_of_gt h1]

/-- Outside its segment an accumulator is unchanged (R122). -/
theorem accNext_outside (g : Seg) (p : Nat) (v a : Bool) (h : p < segStart g ∨ segEnd g ≤ p) :
    accNext g p v a = a := by
  have h1 : p ≠ segStart g := by cases g <;> simp [segStart, segEnd] at * <;> omega
  have h2 : ¬ (segStart g < p ∧ p < segEnd g) := by omega
  simp [accNext, h1, h2]

@[simp] theorem capNext_at_end (g : Seg) (a c : Bool) : capNext g (segEnd g) a c = a := by simp [capNext]

/-- Away from its end slot a capture is unchanged (R123). -/
theorem capNext_elsewhere (g : Seg) (p : Nat) (a c : Bool) (h : p ≠ segEnd g) : capNext g p a c = c := by
  simp [capNext, h]

/-- The parity validation, as three equalities (R143). -/
theorem parityOk_iff (r : Regs) :
    r.parityOk = true ↔ r.capMin = slot r.frame 28 ∧ r.capHour = slot r.frame 35 ∧ r.capDate = slot r.frame 58 := by
  simp [Regs.parityOk, and_assoc]

end Sys2Proof.Machine
end

