-- ==== Sys2Proof/Laws/Finalizer.lean ====
section
/-!
SUPPORT. What FINALIZE, APPEND and GLITCH do to each register, said once.
-/

namespace Sys2Proof.Machine

section
variable (r : Regs) (c : Cfg) (now : Nat)

@[simp] theorem Regs.publish_true : r.publish true = { r with time := decodeFrame r.frame } := rfl
@[simp] theorem Regs.publish_false : r.publish false = r := rfl

/-- What a finalize leaves in every register (R140). -/
theorem Regs.finalize_eq :
    r.finalize c now =
      { r with
        frame := 0, pos := 0
        time := if r.parityOk = true then decodeFrame r.frame else r.time
        lastFinalize := if c.refreshPolicy = .anyFinalize ∨ r.parityOk = true then now else r.lastFinalize } := by
  unfold Regs.finalize Regs.publish Regs.refresh Regs.clearFrame
  cases r.parityOk <;> cases c.refreshPolicy <;> simp

@[simp] theorem Regs.finalize_frame : (r.finalize c now).frame = 0 := rfl
@[simp] theorem Regs.finalize_pos : (r.finalize c now).pos = 0 := rfl
@[simp] theorem Regs.finalize_accMin : (r.finalize c now).accMin = r.accMin := by rw [finalize_eq]
@[simp] theorem Regs.finalize_accHour : (r.finalize c now).accHour = r.accHour := by rw [finalize_eq]
@[simp] theorem Regs.finalize_accDate : (r.finalize c now).accDate = r.accDate := by rw [finalize_eq]
@[simp] theorem Regs.finalize_capMin : (r.finalize c now).capMin = r.capMin := by rw [finalize_eq]
@[simp] theorem Regs.finalize_capHour : (r.finalize c now).capHour = r.capHour := by rw [finalize_eq]
@[simp] theorem Regs.finalize_capDate : (r.finalize c now).capDate = r.capDate := by rw [finalize_eq]
@[simp] theorem Regs.finalize_lastRising : (r.finalize c now).lastRising = r.lastRising := by rw [finalize_eq]
theorem Regs.finalize_time :
    (r.finalize c now).time = if r.parityOk = true then decodeFrame r.frame else r.time := by rw [finalize_eq]
theorem Regs.finalize_lastFinalize :
    (r.finalize c now).lastFinalize =
      if c.refreshPolicy = .anyFinalize ∨ r.parityOk = true then now else r.lastFinalize := by rw [finalize_eq]

end

section
variable (r : Regs) (c : Cfg) (v : Bool) (ts : Nat)

/-- An APPEND below slot 59 advances (R124). -/
theorem Regs.append_of_lt (h : r.pos.toNat < 59) :
    r.append c v ts = { r.appendAt c r.pos.toNat v with pos := r.pos + 1 } := by
  have h' : ¬ r.pos.toNat + 1 > 59 := by omega
  simp [Regs.append, h']

/-- An APPEND at slot 59 finalizes by overflow (R124). -/
theorem Regs.append_of_ge (h : 59 ≤ r.pos.toNat) :
    r.append c v ts = (r.appendAt c r.pos.toNat v).finalize c ts := by
  have h' : r.pos.toNat + 1 > 59 := by omega
  simp [Regs.append, h']

/-- The incremented position as a number. -/
theorem toNat_pos_succ (p : Position) (h : p.toNat < 59) : (p + 1).toNat = p.toNat + 1 := by
  rw [BitVec.toNat_add]
  simp
  omega

/-- At position 0 a GLITCH changes nothing (R125). -/
theorem Regs.glitch_of_zero (h : r.pos = 0) : r.glitch = r := by
  simp [Regs.glitch, h]

/-- Above position 0 a GLITCH rewinds by one (R125). -/
theorem Regs.glitch_of_pos (h : r.pos ≠ 0) : r.glitch = { r with pos := r.pos - 1 } := by
  have h' : r.pos > 0 := by
    have : r.pos.toNat ≠ 0 := fun e => h (BitVec.eq_of_toNat_eq (by simpa using e))
    rw [gt_iff_lt, BitVec.lt_def]
    simp
    omega
  exact if_pos h'

@[simp] theorem Regs.glitch_frame : r.glitch.frame = r.frame := by unfold Regs.glitch; split <;> rfl
@[simp] theorem Regs.glitch_accMin : r.glitch.accMin = r.accMin := by unfold Regs.glitch; split <;> rfl
@[simp] theorem Regs.glitch_accHour : r.glitch.accHour = r.accHour := by unfold Regs.glitch; split <;> rfl
@[simp] theorem Regs.glitch_accDate : r.glitch.accDate = r.accDate := by unfold Regs.glitch; split <;> rfl
@[simp] theorem Regs.glitch_capMin : r.glitch.capMin = r.capMin := by unfold Regs.glitch; split <;> rfl
@[simp] theorem Regs.glitch_capHour : r.glitch.capHour = r.capHour := by unfold Regs.glitch; split <;> rfl
@[simp] theorem Regs.glitch_capDate : r.glitch.capDate = r.capDate := by unfold Regs.glitch; split <;> rfl
@[simp] theorem Regs.glitch_lastRising : r.glitch.lastRising = r.lastRising := by unfold Regs.glitch; split <;> rfl
@[simp] theorem Regs.glitch_time : r.glitch.time = r.time := by unfold Regs.glitch; split <;> rfl
@[simp] theorem Regs.glitch_lastFinalize : r.glitch.lastFinalize = r.lastFinalize := by
  unfold Regs.glitch; split <;> rfl

/-- The position after a GLITCH: `max(POS - 1, 0)` (R125). -/
theorem Regs.toNat_glitch_pos : r.glitch.pos.toNat = r.pos.toNat - 1 := by
  by_cases h : r.pos = 0
  · rw [Regs.glitch_of_zero r h, h]; rfl
  · rw [Regs.glitch_of_pos r h]
    have : r.pos.toNat ≠ 0 := fun e => h (BitVec.eq_of_toNat_eq (by simpa using e))
    show (r.pos - 1).toNat = _
    rw [BitVec.toNat_sub_of_le (by rw [BitVec.le_def]; simp; omega)]
    rfl

end

/-- Every semantic event is one of the four operations (R100, R101). -/
theorem Regs.perform_cases (r : Regs) (c : Cfg) (e : Sev) (ts : Nat) :
    (e = .finalize ∧ r.perform c e ts = { r.finalize c ts with lastRising := ts }) ∨
    (e = .glitch ∧ r.perform c e ts = r.glitch) ∨
    (e = .second ∧ r.perform c e ts = { r with lastRising := ts }) ∨
    (∃ v, e = .append v ∧ r.perform c e ts = r.append c v ts) := by
  cases e
  · exact .inr (.inr (.inl ⟨rfl, rfl⟩))
  · exact .inr (.inr (.inr ⟨_, rfl, rfl⟩))
  · exact .inr (.inl ⟨rfl, rfl⟩)
  · exact .inl ⟨rfl, rfl⟩

end Sys2Proof.Machine
end

