-- ==== Sys2Proof/Laws/PerInstr.lean ====
section
/-!
SUPPORT. The laws stated per instruction. Family TableRow: the word an instruction is encoded as has, on the port of
its row, the fixed bits that spec/opcode_table.json gives the row (match and mask).
-/

namespace Sys2Proof.Laws.TableRow

open Sys2Proof.Laws

/-- A row's port and its fixed bits: the word under `mask` is `bits`. -/
structure Row where
  port : BitVec 2
  bits : BitVec 3
  mask : BitVec 3
deriving DecidableEq, Repr

/-- The rows of spec/opcode_table.json: `match` and `mask`, and the port its format names. -/
def row : Instr → Row
  | .edge _ _ => { port := 0, bits := 0x0, mask := 0x6 }
  | .tick _ => { port := 0, bits := 0x2, mask := 0x7 }
  | .reserved011 _ => { port := 0, bits := 0x3, mask := 0x7 }
  | .reserved1xx _ _ => { port := 0, bits := 0x4, mask := 0x4 }
  | .getTime _ => { port := 1, bits := 0x0, mask := 0x1 }
  | .synced _ => { port := 1, bits := 0x1, mask := 0x1 }
  | .sevSecond _ => { port := 2, bits := 0x0, mask := 0x7 }
  | .sevAppend _ _ => { port := 2, bits := 0x2, mask := 0x6 }
  | .sevGlitch _ => { port := 2, bits := 0x4, mask := 0x7 }
  | .sevFinalize _ => { port := 2, bits := 0x6, mask := 0x7 }
  | .sevReserved001 _ => { port := 2, bits := 0x1, mask := 0x7 }
  | .sevReserved101 _ => { port := 2, bits := 0x5, mask := 0x7 }
  | .sevReserved111 _ => { port := 2, bits := 0x7, mask := 0x7 }

/-- The encoded word is on its row's port and has its row's fixed bits, for every timestamp width the instruction's
operand fits. -/
def Statement (i : Instr) : Prop :=
  ∀ W, i.fits W → inputPort W (encode W i) = (row i).port ∧
    BitVec.ofNat 3 (encode W i) &&& (row i).mask = (row i).bits

/-- The port of a word put on a port. -/
theorem port_onPort (W : Nat) (port : BitVec 2) (word : Nat) (h : word < 2 ^ (W + 3)) :
    inputPort W (onPort W port word) = port := by
  unfold inputPort onPort
  rw [slice_high _ _ _ _ h, Nat.mod_eq_of_lt port.isLt, BitVec.ofNat_toNat, BitVec.setWidth_eq]

/-- The three low bits of a word put on a port. -/
theorem low_onPort (W : Nat) (port : BitVec 2) (word : Nat) :
    BitVec.ofNat 3 (onPort W port word) = BitVec.ofNat 3 word := by
  have e : port.toNat * 2 ^ (W + 3) = 2 ^ 3 * (port.toNat * 2 ^ W) := by rw [Nat.pow_add]; ring
  apply BitVec.eq_of_toNat_eq
  rw [BitVec.toNat_ofNat, BitVec.toNat_ofNat, onPort, e, Nat.mul_add_mod]

/-- A command word, or a presented semantic event, has `W + 3` bits. -/
theorem word_lt (W : Nat) (ts : Nat) (op : BitVec 3) (h : ts < 2 ^ W) : ts * 8 + op.toNat < 2 ^ (W + 3) := by
  have := op.isLt
  rw [Nat.pow_add]
  omega

/-- The three low bits of a command word, or of a presented semantic event. -/
theorem low_word (ts : Nat) (op : BitVec 3) : BitVec.ofNat 3 (ts * 8 + op.toNat) = op := by
  have := op.isLt
  apply BitVec.eq_of_toNat_eq
  rw [BitVec.toNat_ofNat]
  omega

/-- A query word has `W + 1` bits. -/
theorem query_lt (W : Nat) (now : Nat) (op : BitVec 1) (h : now < 2 ^ W) : queryWord now op < 2 ^ (W + 1) := by
  have := op.isLt
  rw [Nat.pow_add, queryWord]
  omega

/-- The low bit of a query word. -/
theorem low_query (now : Nat) (op : BitVec 1) :
    BitVec.ofNat 3 (queryWord now op) &&& 0x1#3 = op.setWidth 3 := by
  have := op.isLt
  apply BitVec.eq_of_toNat_eq
  rw [BitVec.toNat_and, BitVec.toNat_ofNat, queryWord, BitVec.toNat_setWidth]
  show _ &&& 1 = _
  rw [Nat.and_one_is_mod]
  omega

/-- A row of the command port, or of the semantic events: `W + 3` bits, the fixed bits in the low three. -/
theorem statement_word (W : Nat) (port : BitVec 2) (ts : Nat) (op mask : BitVec 3) (h : ts < 2 ^ W) :
    inputPort W (onPort W port (ts * 8 + op.toNat)) = port ∧
      BitVec.ofNat 3 (onPort W port (ts * 8 + op.toNat)) &&& mask = op &&& mask :=
  ⟨port_onPort W port _ (word_lt W ts op h), by rw [low_onPort, low_word]⟩

/-- A row of the query port: `W + 1` bits, the fixed bit the low one. -/
theorem statement_query (W : Nat) (now : Nat) (op : BitVec 1) (h : now < 2 ^ W) :
    inputPort W (onPort W 1 (queryWord now op)) = 1 ∧
      BitVec.ofNat 3 (onPort W 1 (queryWord now op)) &&& 0x1#3 = op.setWidth 3 :=
  ⟨port_onPort W 1 _ (Nat.lt_of_lt_of_le (query_lt W now op h) (Nat.pow_le_pow_right (by decide) (by omega))),
   by rw [low_onPort, low_query]⟩

/-- A row whose fixed bits are all of the low three, or a part of them. -/
theorem bits_of {x mask op bits : BitVec 3} {P : Prop} (h : P ∧ x &&& mask = op &&& mask) (e : op &&& mask = bits) :
    P ∧ x &&& mask = bits := ⟨h.1, h.2.trans e⟩

theorem reserved1xx_bits : ∀ opLow : BitVec 2, (1#1 ++ opLow) &&& 0x4#3 = 0x4#3 := by decide

theorem edge (l : Bool) (ts : Nat) : Statement (.edge l ts) :=
  fun W h => bits_of (statement_word W 0 ts (0b00#2 ++ BitVec.ofBool l) 0x6 h)
    (by cases l <;> decide : (0b00#2 ++ BitVec.ofBool l) &&& 0x6#3 = 0x0#3)

theorem tick (ts : Nat) : Statement (.tick ts) :=
  fun W h => bits_of (statement_word W 0 ts 0b010#3 0x7 h) (by decide : 0b010#3 &&& 0x7#3 = 0x2#3)

theorem reserved011 (ts : Nat) : Statement (.reserved011 ts) :=
  fun W h => bits_of (statement_word W 0 ts 0b011#3 0x7 h) (by decide : 0b011#3 &&& 0x7#3 = 0x3#3)

theorem reserved1xx (opLow : BitVec 2) (ts : Nat) : Statement (.reserved1xx opLow ts) :=
  fun W h => bits_of (statement_word W 0 ts (1#1 ++ opLow) 0x4 h) (reserved1xx_bits opLow)

theorem getTime (now : Nat) : Statement (.getTime now) := fun W h => statement_query W now 0#1 h

theorem synced (now : Nat) : Statement (.synced now) := fun W h => statement_query W now 1#1 h

theorem sevSecond (ts : Nat) : Statement (.sevSecond ts) :=
  fun W h => bits_of (statement_word W 2 ts 0b000#3 0x7 h) (by decide : 0b000#3 &&& 0x7#3 = 0x0#3)

theorem sevAppend (v : Bool) (ts : Nat) : Statement (.sevAppend v ts) :=
  fun W h => bits_of (statement_word W 2 ts (0b01#2 ++ BitVec.ofBool v) 0x6 h)
    (by cases v <;> decide : (0b01#2 ++ BitVec.ofBool v) &&& 0x6#3 = 0x2#3)

theorem sevGlitch (ts : Nat) : Statement (.sevGlitch ts) :=
  fun W h => bits_of (statement_word W 2 ts 0b100#3 0x7 h) (by decide : 0b100#3 &&& 0x7#3 = 0x4#3)

theorem sevFinalize (ts : Nat) : Statement (.sevFinalize ts) :=
  fun W h => bits_of (statement_word W 2 ts 0b110#3 0x7 h) (by decide : 0b110#3 &&& 0x7#3 = 0x6#3)

theorem sevReserved001 (ts : Nat) : Statement (.sevReserved001 ts) :=
  fun W h => bits_of (statement_word W 2 ts 0b001#3 0x7 h) (by decide : 0b001#3 &&& 0x7#3 = 0x1#3)

theorem sevReserved101 (ts : Nat) : Statement (.sevReserved101 ts) :=
  fun W h => bits_of (statement_word W 2 ts 0b101#3 0x7 h) (by decide : 0b101#3 &&& 0x7#3 = 0x5#3)

theorem sevReserved111 (ts : Nat) : Statement (.sevReserved111 ts) :=
  fun W h => bits_of (statement_word W 2 ts 0b111#3 0x7 h) (by decide : 0b111#3 &&& 0x7#3 = 0x7#3)

end Sys2Proof.Laws.TableRow
end

