-- ==== Sys2Proof/Laws/Step.lean ====
section
/-!
SUPPORT. What a step can do, said once: the inversion lemmas of `exec`, `perform` and `step`.
-/

namespace Sys2Proof.Machine

/-- The state an instruction leaves, if it answers a next state. -/
theorem exec_next_cases {i : Instr} {s t : State} (h : exec i s = .next t) :
    (∃ l ts, i = .edge l ts ∧ t = s.afterEdge l (effectiveLevel s.cfg l)
      (s.regs.perform s.cfg (edgeSev s.params s.cfg s.regs.lastRising l ts) ts)) ∨
    (∃ ts, i = .tick ts ∧ t = s.afterEvent (tickRegs Config.tickFn s.regs)) ∨
    (∃ now, i = .getTime now ∧ t = s.afterQuery (.time (packTime s.regs.time))) ∨
    (∃ now, i = .synced now ∧ t = s.afterQuery (.synced (isSynced s.params s.regs now))) ∨
    (∃ ts, i = .sevSecond ts ∧ t = s.afterEvent (s.regs.perform s.cfg .second ts)) ∨
    (∃ v ts, i = .sevAppend v ts ∧ t = s.afterEvent (s.regs.perform s.cfg (.append v) ts)) ∨
    (∃ ts, i = .sevGlitch ts ∧ t = s.afterEvent (s.regs.perform s.cfg .glitch ts)) ∨
    (∃ now, i = .sevFinalize now ∧ t = s.afterEvent (s.regs.finalize s.cfg now)) := by
  cases i <;> cases h <;> simp <;> rfl

/-- What a semantic-event code stands for takes the timestamp it is given. -/
theorem decodeSev_timestamp (sev : SevCode) (ts : Nat) : (decodeSev sev ts).timestamp = ts := by
  unfold decodeSev
  split_ifs <;> rfl

/-- What a command word stands for takes its timestamp field (R70, R71). -/
theorem decodeCommand_timestamp (W cw : Nat) : (decodeCommand W cw).timestamp = cmdTs W cw := by
  unfold decodeCommand
  dsimp only
  split_ifs <;> rfl

/-- A decoded instruction's timestamp operand has `W` bits (R70). -/
theorem inputInstr_fits {W : Nat} {x : Input} {i : Instr} (h : inputInstr W x = some i) : i.fits W := by
  cases x with
  | idle => cases h
  | reset => cases h
  | command cw =>
    cases h
    show (decodeCommand W cw).timestamp < 2 ^ W
    rw [decodeCommand_timestamp]
    exact Sys2Proof.Laws.slice_lt _ _ _
  | event ew =>
    cases h
    show (decodeSev _ _).timestamp < 2 ^ W
    rw [decodeSev_timestamp]
    exact Sys2Proof.Laws.slice_lt _ _ _

/-- What the query port returns for a query word: one answer, what the query's own step leaves (R75). -/
theorem State.ask_eq (s : State) (qw : Nat) :
    ∃ a, s.ask qw = [a] ∧ exec (decodeQuery s.params.W qw) s = .next (s.afterQuery a) := by
  have h : ∃ a, exec (decodeQuery s.params.W qw) s = .next (s.afterQuery a) := by
    unfold decodeQuery
    by_cases hq : queryOp qw = 0#1
    · rw [if_pos hq]; exact ⟨_, rfl⟩
    · rw [if_neg hq]; exact ⟨_, rfl⟩
  obtain ⟨a, ha⟩ := h
  exact ⟨a, by rw [State.ask, ha]; rfl, ha⟩

/-- What the query port returns for a query word, as a value (R75, R160, R161). -/
theorem State.ask_value (s : State) (qw : Nat) :
    s.ask qw = [if queryOp qw = 0#1 then .time (packTime s.regs.time)
      else .synced (isSynced s.params s.regs (queryNow s.params.W qw))] := by
  unfold State.ask decodeQuery
  by_cases hq : queryOp qw = 0#1
  · rw [if_pos hq, if_pos hq]; rfl
  · rw [if_neg hq, if_neg hq]; rfl

/-- The state that performing a stimulus leaves, before its queries are answered. -/
theorem perform_next_cases {s t : State} {x : Stimulus} (h : s.perform x = .next t) :
    (x.input = .reset ∧ t = s.performReset x.cfg) ∨
    (x.input ≠ .reset ∧ inputInstr s.params.W x.input = none ∧ t = s.performIdle) ∨
    (x.input ≠ .reset ∧ ∃ i, inputInstr s.params.W x.input = some i ∧ exec i s = .next t) := by
  unfold State.perform at h
  split at h
  · cases h; exact .inl ⟨‹_›, rfl⟩
  · split at h
    · exact .inr (.inr ⟨‹_›, _, ‹_›, h⟩)
    · cases h; exact .inr (.inl ⟨‹_›, ‹_›, rfl⟩)

/-- The state a step leaves, if it answers a next state: the idle step with nothing to present, or what performing the
first stimulus leaves, with its queries answered. -/
theorem step_next_cases {s t : State} (h : step s = .next t) :
    (s.inputs = [] ∧ t = s.performIdle) ∨
    (∃ x rest u, s.inputs = x :: rest ∧ (x.input ≠ .reset → x.cfg = s.cfg) ∧
      t = { s with inputs := rest }.answering u x.queries ∧ { s with inputs := rest }.perform x = .next u) := by
  unfold step at h
  split at h
  · cases h; exact .inl ⟨‹_›, rfl⟩
  · rename_i x rest hs
    refine .inr ⟨x, rest, ?_⟩
    unfold State.present at h
    split at h
    · cases h
    · rename_i hc
      split at h
      · cases h
        exact ⟨_, hs, fun hr => by_contra fun hn => hc ⟨hr, hn⟩, rfl, ‹_›⟩
      · cases h
      · cases h

/-- The step of a state whose next stimulus is not refused. -/
theorem step_of_perform {s u : State} {x : Stimulus} {rest : List Stimulus} (hs : s.inputs = x :: rest)
    (hc : x.input ≠ .reset → x.cfg = s.cfg) (hu : { s with inputs := rest }.perform x = .next u) :
    step s = .next ({ s with inputs := rest }.answering u x.queries) := by
  have hc' : ¬ (x.input ≠ .reset ∧ x.cfg ≠ s.cfg) := fun h => h.2 (hc h.1)
  simp only [step, hs, State.present]
  rw [if_neg hc', hu]

/-- The step of a state whose next stimulus presents an instruction and no query is `exec` of it. -/
theorem step_of_instr {s : State} {i : Instr} {x : Input} {rest : List Stimulus}
    (hs : s.inputs = { cfg := s.cfg, input := x } :: rest) (hi : inputInstr s.params.W x = some i) :
    step s = exec i { s with inputs := rest } := by
  have hr : x ≠ .reset := by rintro rfl; cases hi
  simp only [step, hs, State.present, State.perform, hi, ne_eq, not_true, and_false, if_false, hr, State.answering_nil]
  split
  · exact Eq.symm ‹_›
  · exact Eq.symm ‹_›
  · exact Eq.symm ‹_›

/-- What a step does to the registers: nothing, the reset values, one semantic event, a FINALIZE presented by
itself, or a TICK. -/
theorem step_regs_cases {s t : State} (h : step s = .next t) :
    t.regs = s.regs ∨ t.regs = Regs.reset ∨
    (∃ e ts, t.regs = s.regs.perform s.cfg e ts) ∨
    (∃ now, t.regs = s.regs.finalize s.cfg now) ∨
    t.regs = tickRegs Config.tickFn s.regs := by
  obtain ⟨-, rfl⟩ | ⟨x, rest, u, -, -, rfl, hu⟩ := step_next_cases h
  · exact .inl rfl
  obtain ⟨-, rfl⟩ | ⟨-, -, rfl⟩ | ⟨-, i, -, hi⟩ := perform_next_cases hu
  · exact .inr (.inl rfl)
  · exact .inl rfl
  · obtain ⟨l, ts, -, rfl⟩ | ⟨ts, -, rfl⟩ | ⟨now, -, rfl⟩ | ⟨now, -, rfl⟩ | ⟨ts, -, rfl⟩ | ⟨v, ts, -, rfl⟩ |
      ⟨ts, -, rfl⟩ | ⟨now, -, rfl⟩ := exec_next_cases hi
    · exact .inr (.inr (.inl ⟨_, _, rfl⟩))
    · exact .inr (.inr (.inr (.inr rfl)))
    · exact .inl rfl
    · exact .inl rfl
    · exact .inr (.inr (.inl ⟨.second, ts, rfl⟩))
    · exact .inr (.inr (.inl ⟨.append v, ts, rfl⟩))
    · exact .inr (.inr (.inl ⟨.glitch, ts, rfl⟩))
    · exact .inr (.inr (.inr (.inl ⟨_, rfl⟩)))

/-- No step writes the parameters (R7). -/
theorem step_params {s t : State} (h : step s = .next t) : t.params = s.params := by
  obtain ⟨-, rfl⟩ | ⟨x, rest, u, -, -, rfl, hu⟩ := step_next_cases h
  · rfl
  obtain ⟨-, rfl⟩ | ⟨-, -, rfl⟩ | ⟨-, i, -, hi⟩ := perform_next_cases hu
  · rfl
  · rfl
  · obtain ⟨l, ts, -, rfl⟩ | ⟨ts, -, rfl⟩ | ⟨now, -, rfl⟩ | ⟨now, -, rfl⟩ | ⟨ts, -, rfl⟩ | ⟨v, ts, -, rfl⟩ |
      ⟨ts, -, rfl⟩ | ⟨now, -, rfl⟩ := exec_next_cases hi <;> rfl

end Sys2Proof.Machine
end

