-- ==== Sys2Proof/Tests/Slice0.lean ====
section
/-!
SUPPORT. Tests, with expected values from spec/95_test_vectors.md (the vector's name is in each docstring), and one
witness per statement with hypotheses: a concrete state and operands that meet all of them together.
-/

namespace Sys2Proof.Tests

open Sys2Proof Sys2Proof.Machine

/-! ### Small states -/

/-- The registers after a step, if it goes on. -/
def regsOf : Host.Outcome State Fault Refusal → Option Regs
  | .next t => some t.regs
  | .fault _ => none
  | .refused _ => none

/-- The query port's answer after a step, if it goes on and was a query. -/
def answerOf : Host.Outcome State Fault Refusal → Option Answer
  | .next t => t.answers.head?
  | .fault _ => none
  | .refused _ => none

/-- The refusal a step ends in, if it does. -/
def refusalOf : Host.Outcome State Fault Refusal → Option Refusal
  | .next _ => none
  | .fault _ => none
  | .refused r => some r

/-- The reset state with other registers. -/
def withRegs (r : Regs) : State := { State.reset with regs := r }

/-- The state after a step that goes on. -/
def after (s : State) : State :=
  match step s with
  | .next t => t
  | .fault _ => s
  | .refused _ => s

/-- The start state of the vectors E-1 to E-11: `LAST_RISING = 10000`, `POS = 5`. -/
def atSlot5 : State := withRegs { Regs.reset with pos := 5, lastRising := 10000 }

/-- Registers at a position. -/
def atPos (p : Position) : Regs := { Regs.reset with pos := p }

/-- The frame of L1-1. -/
def frameL1 : FrameWord := 0x0084CC5256800000

/-- The time of L1-1. -/
def timeL1 : DecodedTime := { second := 0, minute := 34, hour := 12, day := 5, weekday := 3, month := 6, year := 21 }

/-- The registers of F-1: the L1-1 frame with its captures. -/
def regsF1 : Regs := { Regs.reset with frame := frameL1, pos := 59, capMin := true }

/-- The configuration with the signal inverted. -/
def inverted : Cfg := { invertSignal := true }

/-- The command `EDGE L @ts` on the command port. -/
def edgeCmd (l : Bool) (ts : Nat) : Input := .command (commandWord ts (if l then 1 else 0))

theorem no_reset (s : State) (i : Input) (qs : List Query) (h : i ≠ .reset) : ¬ (s.withInput i qs).resetNext := by
  rintro ⟨x, rest, e, hx⟩
  rw [State.withInput_inputs] at e
  cases e
  exact h hx

/-! ### What WellFormed refuses -/

/-- R73. -/
theorem test_wellFormed_refuses_reserved011 : (Instr.reserved011 1000).wellFormed 32 = false := by decide
/-- R73. -/
theorem test_wellFormed_refuses_reserved1xx : (Instr.reserved1xx 2 1000).wellFormed 32 = false := by decide
/-- R78. -/
theorem test_wellFormed_refuses_sevReserved001 : (Instr.sevReserved001 0).wellFormed 32 = false := by decide
/-- R78. -/
theorem test_wellFormed_refuses_sevReserved101 : (Instr.sevReserved101 0).wellFormed 32 = false := by decide
/-- R78. -/
theorem test_wellFormed_refuses_sevReserved111 : (Instr.sevReserved111 0).wellFormed 32 = false := by decide
/-- R7: `T_SPLIT < T_GLITCH`. -/
theorem test_wellFormed_refuses_split_at_glitch : ({ tSplit := 300 } : Params).wellFormed = false := by decide
/-- R7: `T_GLITCH <= T_SYNC`. -/
theorem test_wellFormed_refuses_glitch_above_sync : ({ tGlitch := 1201 } : Params).wellFormed = false := by decide
/-- R70: a timestamp operand has `W` bits. -/
theorem test_wellFormed_refuses_wide_timestamp : (Instr.edge true (2 ^ 32)).wellFormed 32 = false ∧
    (Instr.edge true (2 ^ 32)).wellFormed 33 = true := by decide
/-- R7: `W` at least 17. -/
theorem test_wellFormed_refuses_narrow_W : ({ W := 16 } : Params).wellFormed = false := by decide
/-- R7: `T_FRESH` a `W`-bit value. -/
theorem test_wellFormed_refuses_wide_tFresh : ({ W := 17, tFresh := 131072 } : Params).wellFormed = false := by decide
/-- R7: 17 bits hold the source values. -/
theorem test_wellFormed_accepts_W17 : ({ W := 17 } : Params).wellFormed = true := by decide
/-- R7: "the source values do". -/
theorem test_wellFormed_accepts_source_values : ({} : Params).wellFormed = true := by decide

/-! ### Decoding: every constructor, words written out from R70, R71, R73, R75, R77, R78 -/

/-- X-1. -/
theorem test_decode_edge1 : decodeCommand 32 0x1F41 = .edge true 1000 := by decide
/-- X-2. -/
theorem test_decode_edge0 : decodeCommand 32 0x2260 = .edge false 1100 := by decide
/-- X-3. -/
theorem test_decode_edge_top : decodeCommand 32 0x7FFFFFFF9 = .edge true 0xFFFFFFFF := by decide
/-- X-4. -/
theorem test_decode_tick : decodeCommand 32 0x2 = .tick 0 := by decide
/-- S-13. -/
theorem test_decode_tick_top : decodeCommand 32 0x7FFFFFFFA = .tick 0xFFFFFFFF := by decide
/-- X-5. -/
theorem test_decode_reserved011 : decodeCommand 32 0x1F43 = .reserved011 1000 := by decide
/-- X-6, `cmd_op = 110`, `cmd_ts = 1`. -/
theorem test_decode_reserved1xx : decodeCommand 32 0b1110 = .reserved1xx 0b10 1 := by decide
/-- S-9. -/
theorem test_decode_getTime : decodeQuery 32 0x0 = .getTime 0 := by decide
/-- S-1. -/
theorem test_decode_synced : decodeQuery 32 0x1DC91 = .synced 61000 := by decide
/-- R77. -/
theorem test_decode_sevSecond : decodeSev 0b000 7 = .sevSecond 7 := by decide
/-- R77, both values. -/
theorem test_decode_sevAppend :
    decodeSev 0b010 7 = .sevAppend false 7 ∧ decodeSev 0b011 7 = .sevAppend true 7 := by decide
/-- R77. -/
theorem test_decode_sevGlitch : decodeSev 0b100 7 = .sevGlitch 7 := by decide
/-- R77. -/
theorem test_decode_sevFinalize : decodeSev 0b110 7 = .sevFinalize 7 := by decide
/-- R78. -/
theorem test_decode_sevReserved : decodeSev 0b001 7 = .sevReserved001 7 ∧ decodeSev 0b101 7 = .sevReserved101 7 ∧
    decodeSev 0b111 7 = .sevReserved111 7 := by decide

/-- The input words of the three ports (log 9): a bare table number is a command word; `{01, 00, QW}` is a query;
`{10, ts, SEV}` a semantic event; port 3 presents nothing. -/
theorem test_decode_ports :
    decodeTableWord 8 0x0 = some (.edge false 0) ∧
    decodeTableWord 35 0x1F41 = some (.edge true 1000) ∧
    decodeTableWord 37 (2 ^ 35 + 0x1DC91) = some (.synced 61000) ∧
    decodeTableWord 37 (2 * 2 ^ 35 + 61000 * 8 + 0b110) = some (.sevFinalize 61000) ∧
    decodeTableWord 37 (3 * 2 ^ 35) = none := by decide

/-- X-1, X-2, X-4, X-5, S-1 the other way. -/
theorem test_encode :
    encode 32 (.edge true 1000) = 0x1F41 ∧ encode 32 (.edge false 1100) = 0x2260 ∧ encode 32 (.tick 0) = 0x2 ∧
    encode 32 (.reserved011 1000) = 0x1F43 ∧ encode 32 (.synced 61000) = 0x80001DC91 := by decide

/-- R70 at another width: with `W = 17` the timestamp field is 17 bits, and the bit above it is no part of it. -/
theorem test_decode_W17 :
    decodeCommand 17 0x1F41 = .edge true 1000 ∧ decodeCommand 17 (2 ^ 20 + 0x1F41) = .edge true 1000 ∧
    decodeInputWord 17 (2 ^ 20 + 0x1DC91) = some (.synced 61000) := by decide

/-- R80 and L1-1: the encoder of the data frame gives the spec's frame. -/
theorem test_telegram_L1 : telegram 0 timeL1 = frameL1 := by decide

/-- R80: the layout covers slots 0 to 59, each row beginning where the one before ends. -/
theorem test_frameLayout : frameLayout.map (fun x => (x.offset, x.width)) =
    [(0, 21), (21, 7), (28, 1), (29, 6), (35, 1), (36, 6), (42, 3), (45, 5), (50, 8), (58, 1), (59, 1)] := by decide

/-- R86. -/
theorem test_listing_text : (Line.edge true 1000).text = "EDGE 1 @1000" ∧ Line.tick.text = "TICK" := by decide

/-! ### One step per instruction -/

/-- E-1 (R102): a gap of 1201 finalizes. -/
theorem test_edge_sync_gap : regsOf (exec (.edge true 11201) atSlot5) =
    some { Regs.reset with lastRising := 11201, lastFinalize := 11201 } := by decide
/-- E-22 (R100, R105): with the signal inverted, raw level 1 is a falling edge; 200 ms appends 1 at slot 0. -/
theorem test_edge_inverted_falling :
    regsOf (exec (.edge true 1200) { withRegs { Regs.reset with lastRising := 1000 } with cfg := inverted }) =
      some { Regs.reset with frame := 0x1, pos := 1, lastRising := 1000 } := by decide
/-- E-1 to E-15: the classification at every boundary, also across the wrap of the clock, and
across the wrap of a 17-bit clock (R100, D2: 131072 - 130072 + 100 = 1100). -/
theorem test_classification_boundaries :
    edgeSev {} {} 10000 true 11201 = .finalize ∧ edgeSev {} {} 10000 true 11200 = .second ∧
    edgeSev {} {} 10000 true 10300 = .second ∧ edgeSev {} {} 10000 true 10299 = .glitch ∧
    edgeSev {} {} 10000 true 10000 = .glitch ∧ edgeSev {} {} 10000 false 10139 = .append false ∧
    edgeSev {} {} 10000 false 10140 = .append true ∧ edgeSev {} {} 10000 false 15000 = .append true ∧
    edgeSev {} {} 0xFFFFFC18 true 1000 = .finalize ∧ edgeSev {} {} 0xFFFFFC18 true 100 = .second ∧
    edgeSev {} {} 5000 true 4999 = .finalize ∧ edgeSev {} {} 5000 false 4999 = .append true ∧
    edgeSev { W := 17 } {} 130072 true 100 = .second ∧
    edgeSev {} inverted 0 false 1000 = .second := by decide
/-- S-12 (R162), with the example ticker the vector names. -/
theorem test_tick_example : tickRegs (fun x => x + 1) Regs.reset =
    { Regs.reset with time := { DecodedTime.zero with second := 1 } } := by decide
/-- S-13 (R74, R162): any ticker, whatever `cmd_ts`. -/
theorem test_tick_any : regsOf (exec (.tick 0xFFFFFFFF) (withRegs { Regs.reset with time := { timeL1 with second := 7 } }))
    = some { Regs.reset with time := { timeL1 with second := Config.tickFn 7 } } := rfl
/-- X-5. -/
theorem test_reserved011_refused : refusalOf (exec (.reserved011 1000) State.reset) = some (.reservedCommand 3) := by
  decide
/-- X-6. -/
theorem test_reserved1xx_refused : refusalOf (exec (.reserved1xx 0b10 0) State.reset) = some (.reservedCommand 6) := by
  decide
/-- S-9. -/
theorem test_getTime : answerOf (exec (.getTime 0) (withRegs { Regs.reset with time := timeL1 })) =
    some (.time 0x150603050C2200) := by decide
/-- S-2: age 120000. -/
theorem test_synced_fresh :
    answerOf (exec (.synced 181000) (withRegs { Regs.reset with time := timeL1, lastFinalize := 61000 })) =
      some (.synced true) := by decide
/-- S-3: age 120001. -/
theorem test_synced_stale :
    answerOf (exec (.synced 181001) (withRegs { Regs.reset with time := timeL1, lastFinalize := 61000 })) =
      some (.synced false) := by decide
/-- S-4, S-5, S-6, S-7. -/
theorem test_isSynced :
    isSynced {} { Regs.reset with time := { timeL1 with day := 0 }, lastFinalize := 61000 } 61000 = false ∧
    isSynced {} { Regs.reset with time := { timeL1 with month := 0 }, lastFinalize := 61000 } 61000 = false ∧
    isSynced {} { Regs.reset with time := timeL1, lastFinalize := 61000 } 60999 = false ∧
    isSynced {} { Regs.reset with time := timeL1, lastFinalize := 0xFFFFFF00 } 100000 = true := by decide
/-- R104, R126. -/
theorem test_sevSecond : regsOf (exec (.sevSecond 11000) atSlot5) =
    some { Regs.reset with pos := 5, lastRising := 11000 } := by decide
/-- A-4: the capture at slot 28, whose bit is not folded in. -/
theorem test_sevAppend_capture :
    regsOf (exec (.sevAppend true 0)
      (withRegs { atPos 28 with accHour := true, accDate := true, capMin := true })) =
    some { atPos 29 with frame := 0x10000000, accHour := true, accDate := true } := by decide
/-- A-11: the overflow at slot 59 finalizes, and fails. -/
theorem test_sevAppend_overflow :
    regsOf (exec (.sevAppend false 12345) (withRegs { atPos 59 with capMin := true, time := timeL1 })) =
    some { Regs.reset with capMin := true, time := timeL1, lastFinalize := 12345 } := by decide
/-- A-1, A-2, A-3, A-6, A-7, A-9: the accumulator at start slots, inside a segment, and outside. -/
theorem test_accNext :
    accNext .minute 21 false true = false ∧ accNext .minute 21 true false = true ∧
    accNext .minute 27 true true = false ∧ accNext .date 36 false true = false ∧
    accNext .date 57 true true = false ∧ accNext .minute 10 true true = true := by decide
/-- A-13. -/
theorem test_sevGlitch : regsOf (exec (.sevGlitch 0) (withRegs (atPos 17))) = some (atPos 16) := by decide
/-- A-12. -/
theorem test_sevGlitch_floor : regsOf (exec (.sevGlitch 0) (withRegs (atPos 0))) = some (atPos 0) := by decide
/-- F-1: a `SECOND` that was not 0 becomes 0. -/
theorem test_sevFinalize_success :
    regsOf (exec (.sevFinalize 61000) (withRegs { regsF1 with time := { DecodedTime.zero with second := 9 } })) =
    some { Regs.reset with capMin := true, time := timeL1, lastFinalize := 61000 } := by decide
/-- F-2: a failed finalize under SUCCESS_ONLY. -/
theorem test_sevFinalize_failure :
    regsOf (exec (.sevFinalize 61000)
      { withRegs { regsF1 with capMin := false, lastFinalize := 5 } with cfg := { refreshPolicy := .successOnly } }) =
    some { Regs.reset with lastFinalize := 5 } := by decide
/-- X-8. -/
theorem test_sevReserved001_refused : refusalOf (exec (.sevReserved001 0) State.reset) = some (.reservedSev 1) := by
  decide
/-- X-8. -/
theorem test_sevReserved101_refused : refusalOf (exec (.sevReserved101 0) State.reset) = some (.reservedSev 5) := by
  decide
/-- X-8. -/
theorem test_sevReserved111_refused : refusalOf (exec (.sevReserved111 0) State.reset) = some (.reservedSev 7) := by
  decide
/-- B-3, B-4, B-7 to B-14. -/
theorem test_bcd2dec : bcd2dec 0x0A = 10 ∧ bcd2dec 0x0F = 15 ∧ bcd2dec 0x59 = 59 ∧ bcd2dec 0x7F = 85 ∧
    bcd2dec 0x3F = 45 ∧ bcd2dec 0x1F = 25 ∧ bcd2dec 0x07 = 7 ∧ bcd2dec 0x80 = 80 ∧ bcd2dec 0x99 = 99 ∧
    bcd2dec 0xFF = 165 := by decide
/-- A-15, A-16 (R121): the last append of the vectors, at slot 0 rewound over a 1. -/
theorem test_write_modes :
    ({ atPos 0 with frame := 1 }.append {} false 2100).frame = 0 ∧
    ({ atPos 0 with frame := 1 }.append { frameWrite := .or } false 2100).frame = 1 := by decide
/-- R72 (X-7): idle. -/
theorem test_idle : regsOf (step (atSlot5.withInput .idle [])) = some atSlot5.regs := by decide
/-- R200. -/
theorem test_reset_step : regsOf (step (atSlot5.withInput .reset [])) = some Regs.reset := by decide
/-- E-21 through `step`: raw level 0 is a rising edge, and the observer output pulses. -/
theorem test_step_inverted_rising :
    (after ({ State.reset with cfg := inverted }.withInput (edgeCmd false 1000) [])).regs.lastRising = 1000 ∧
    (after ({ State.reset with cfg := inverted }.withInput (edgeCmd false 1000) [])).obs =
      { valid := true, raw := false, active := true } := by decide
/-- R163, R57: a rising edge that finalizes F-1, with a query at each boundary in the same step: the step pulses the
observer output, and the answers are the times before and after it. -/
theorem test_step_edge_with_queries :
    let s := (withRegs { regsF1 with lastRising := 59000 }).withInput (edgeCmd true 61000)
      [{ word := 0 }, { word := 0, boundary := .after }, { word := 0x1DC91, boundary := .after }]
    (after s).answers = [.time 0, .time 0x150603050C2200, .synced true] ∧ (after s).obs.valid = true ∧
      (after s).regs.time = timeL1 := by decide
/-- The interface: the word of X-1 placed by `withFetchWord` is the first thing done after reset. -/
theorem test_withFetchWord : regsOf (step (State.reset.withFetchWord 35 0x1F41)) =
    some { Regs.reset with lastRising := 1000 } := by decide
/-- A bare table number of one byte, placed after reset, runs. -/
theorem test_withFetchWord_short : regsOf (step (State.reset.withFetchWord 8 0x0)) =
    some (atPos 1) := by decide

/-! ### Witnesses: the hypotheses of each statement are met together -/

/-- R70 and R75 at the default width, at the largest timestamp. -/
theorem witness_CommandWord_and_maps : (0xFFFFFFFF : Nat) < 2 ^ 32 := by decide
theorem witness_DecodeEncodeAgree : (Instr.edge true 0xFFFFFFFF).fits 32 ∧ (Instr.synced 131071).fits 17 := by decide
theorem witness_FetchedWordRunsNext :
    (Instr.sevAppend true 0xFFFFFFFF).fits 32 ∧ (Instr.sevAppend true 0xFFFFFFFF).fits State.reset.params.W := by decide
theorem witness_PseudoInstructionsExpand : (61000 : Nat) < 2 ^ 17 := by decide
theorem witness_StepRunsDecodedInstruction_command :
    ((atSlot5.withInput (edgeCmd true 11000) []).inputs = { cfg := atSlot5.cfg, input := edgeCmd true 11000 } :: []) ∧
    ∃ cw, edgeCmd true 11000 = .command cw ∧ Instr.edge true 11000 = decodeCommand atSlot5.params.W cw :=
  ⟨rfl, _, rfl, by decide⟩
theorem witness_StepRunsDecodedInstruction_query :
    (atSlot5.withInput .idle [{ word := 0x1DC91 }]).inputs =
      { cfg := atSlot5.cfg, input := .idle, queries := [{ word := 0x1DC91 }] } :: [] := rfl
theorem witness_StepRunsDecodedInstruction_event :
    ((atSlot5.withInput (.event 0b111011) []).inputs = { cfg := atSlot5.cfg, input := .event 0b111011 } :: []) ∧
    ∃ ew, Input.event 0b111011 = .event ew ∧ Instr.sevAppend true 7 = decodeEvent atSlot5.params.W ew :=
  ⟨rfl, _, rfl, by decide⟩
/-- With a query and without. -/
theorem witness_IdleStepChangesNoRegister :
    (atSlot5.withInput .idle [{ word := 0 }]).inputs =
      { cfg := atSlot5.cfg, input := .idle, queries := [{ word := 0 }] } :: [] ∧
    (atSlot5.withInput .idle []).inputs = { cfg := atSlot5.cfg, input := .idle, queries := [] } :: [] := ⟨rfl, rfl⟩
theorem witness_NothingPresentedIsIdle : atSlot5.inputs = [] := rfl
theorem witness_ResetStepClearsEveryRegister :
    (({ atSlot5 with inputs := [{ cfg := inverted, input := .reset }] } : State).inputs =
      { cfg := inverted, input := .reset, queries := [] } :: []) ∧
    ¬ (atSlot5.withInput .idle []).resetNext ∧
    step (atSlot5.withInput .idle []) = .next (after (atSlot5.withInput .idle [])) :=
  ⟨rfl, no_reset _ _ _ (by decide), rfl⟩
theorem witness_ChangedConfigurationIsRefused :
    ({ atSlot5 with inputs := [{ cfg := inverted, input := .idle }] } : State).inputs =
      { cfg := inverted, input := .idle } :: [] ∧ Input.idle ≠ .reset ∧ inverted ≠ atSlot5.cfg :=
  ⟨rfl, by decide, by decide⟩
/-- `d` = 300 and `d` = 1200, the two bounds of R104 (E-3, E-2). -/
theorem witness_SecondEdgeWritesLastRisingOnly :
    (true ^^ atSlot5.cfg.invertSignal) = true ∧
    atSlot5.params.tGlitch ≤ gap atSlot5.params.W 10300 atSlot5.regs.lastRising ∧
    gap atSlot5.params.W 10300 atSlot5.regs.lastRising ≤ atSlot5.params.tSync ∧
    atSlot5.params.tGlitch ≤ gap atSlot5.params.W 11200 atSlot5.regs.lastRising ∧
    gap atSlot5.params.W 11200 atSlot5.regs.lastRising ≤ atSlot5.params.tSync := by decide
/-- `d` = 299 and `d` = 0 (E-4, E-6). -/
theorem witness_GlitchEdgeRewindsPositionOnly :
    (true ^^ atSlot5.cfg.invertSignal) = true ∧
    gap atSlot5.params.W 10299 atSlot5.regs.lastRising < atSlot5.params.tGlitch ∧
    ¬ gap atSlot5.params.W 10299 atSlot5.regs.lastRising > atSlot5.params.tSync ∧
    gap atSlot5.params.W 10000 atSlot5.regs.lastRising < atSlot5.params.tGlitch ∧
    ¬ gap atSlot5.params.W 10000 atSlot5.regs.lastRising > atSlot5.params.tSync := by decide
/-- `d` = 1201 (E-1). -/
theorem witness_SyncGapEdgeFinalizes :
    (true ^^ atSlot5.cfg.invertSignal) = true ∧ gap atSlot5.params.W 11201 atSlot5.regs.lastRising > atSlot5.params.tSync := by decide
/-- Raw level 0 as it is, and raw level 1 inverted. -/
theorem witness_FallingEdgeAppendsClassifiedBit :
    (false ^^ atSlot5.cfg.invertSignal) = false ∧ (true ^^ inverted.invertSignal) = false := by decide
/-- E-12. -/
theorem witness_ClassificationSurvivesClockWrap :
    (1000 : Nat) < 0xFFFFFC18 ∧ 0xFFFFFC18 < 2 ^ ({} : Params).W ∧ (0xFFFFFC18 : Nat) ≤ 0xFFFFFFFF ∧
      0xFFFFFFFF < 2 ^ ({} : Params).W := by decide
theorem witness_ObserverPulsesExactlyOnEdge :
    step (atSlot5.withInput (edgeCmd true 11000) []) = .next (after (atSlot5.withInput (edgeCmd true 11000) [])) ∧
    (atSlot5.withInput (edgeCmd true 11000) []).inputs = { cfg := {}, input := edgeCmd true 11000 } :: [] ∧
    inputInstr 32 (edgeCmd true 11000) = some (.edge true 11000) := ⟨rfl, rfl, by decide⟩
/-- `POS` = 0 and `POS` = 58. -/
theorem witness_AppendWritesItsSlot :
    (withRegs (atPos 0)).regs.pos < 59 ∧ (withRegs (atPos 58)).regs.pos < 59 := by decide
/-- `POS` = 58 and `POS` = 59, with the frame that has slot 59 written with 1. -/
theorem witness_AppendAdvancesOrFinalizes :
    (∀ q, q < 64 → slot (0x0800000000000000 : FrameWord) q =
      if q = 59 then (if (withRegs (atPos 59)).cfg.frameWrite = .assign then true
        else (slot (withRegs (atPos 59)).regs.frame q || true)) else slot (withRegs (atPos 59)).regs.frame q) ∧
    (withRegs (atPos 58)).regs.pos < 59 ∧ (withRegs (atPos 59)).regs.pos = 59 := by decide
/-- F-1. -/
theorem witness_FinalizePublishesWhenParityMatches :
    regsF1.capMin = regsF1.frame.getLsbD 28 ∧ regsF1.capHour = regsF1.frame.getLsbD 35 ∧
      regsF1.capDate = regsF1.frame.getLsbD 58 := by decide
/-- F-2, F-3, and a mismatch in each of the other segments. -/
theorem witness_FinalizeDiscardsOnMismatch :
    ({ regsF1 with capMin := false } : Regs).capMin ≠ regsF1.frame.getLsbD 28 ∧
    ({ regsF1 with capHour := true } : Regs).capHour ≠ regsF1.frame.getLsbD 35 ∧
    ({ regsF1 with capDate := true } : Regs).capDate ≠ regsF1.frame.getLsbD 58 := by decide
theorem witness_EveryFinalizeClearsAndRefreshes :
    atSlot5.cfg.refreshPolicy = .anyFinalize ∧ ({ refreshPolicy := .successOnly } : Cfg).refreshPolicy = .successOnly :=
  ⟨rfl, rfl⟩
theorem witness_BcdConversionIsExact : (15 : Byte) < 16 := by decide
/-- The largest of each range. -/
theorem witness_BcdRoundTrip :
    (99 : Byte) ≤ 99 ∧ (59 : Byte) ≤ 59 ∧ (31 : Byte) ≤ 31 ∧ (12 : Byte) ≤ 12 := by decide
/-- The frame of L1-1 with slots 0, 20 and 59 set. -/
theorem witness_IgnoredSlotsNeverMatter :
    (frameL1 ||| 0x0800000000100001 ≠ frameL1) ∧
    ∀ q, 21 ≤ q → q ≤ 58 → slot (frameL1 ||| 0x0800000000100001) q = slot regsF1.frame q := by
  refine ⟨by decide, ?_⟩
  have h : ∀ q, q < 59 → 21 ≤ q → slot (frameL1 ||| 0x0800000000100001) q = slot regsF1.frame q := by decide
  exact fun q h1 h2 => h q (by omega) h1
theorem witness_QueriesReadOnlyOutputRegisters :
    ∃ t t', Instr.isQuery (.getTime 0) ∧ atSlot5.regs.time = State.reset.regs.time ∧
      atSlot5.regs.lastFinalize = State.reset.regs.lastFinalize ∧ atSlot5.params = State.reset.params ∧
      atSlot5.regs ≠ State.reset.regs ∧
      exec (.getTime 0) State.reset = .next t ∧ exec (.getTime 0) atSlot5 = .next t' :=
  ⟨_, _, ⟨0, .inl rfl⟩, rfl, rfl, rfl, by decide, rfl, rfl⟩
theorem witness_QueriesDisturbNothing :
    ∃ s1 s2 t, Instr.isQuery (.synced 61000) ∧ exec (.synced 61000) atSlot5 = .next s1 ∧
      exec (.edge true 11000) s1 = .next s2 ∧ exec (.edge true 11000) atSlot5 = .next t :=
  ⟨_, _, _, ⟨61000, .inr rfl⟩, rfl, rfl, rfl⟩
/-- Opcodes `011`, `100` and `111`. -/
theorem witness_ReservedCommandsAreRefused :
    (atSlot5.withInput (.command 0x1F43) []).inputs = { cfg := atSlot5.cfg, input := .command 0x1F43, queries := [] } :: [] ∧
    cmdOp 0x1F43 = 0b011 ∧ 0b100 ≤ cmdOp 0x1F44 ∧ 0b100 ≤ cmdOp 0x1F47 :=
  ⟨rfl, by decide, by decide, by decide⟩
/-- At the top position, on an append that overflows. -/
theorem witness_EveryStepKeepsInv :
    ((withRegs { regsF1 with time := timeL1 }).withInput (.event (60100 * 8 + 0b011)) []).Inv ∧
    step ((withRegs { regsF1 with time := timeL1 }).withInput (.event (60100 * 8 + 0b011)) []) =
      .next (after ((withRegs { regsF1 with time := timeL1 }).withInput (.event (60100 * 8 + 0b011)) [])) :=
  ⟨by decide, rfl⟩
/-- An accumulator changing at the first and the last slot of its segment. -/
theorem witness_ParityFlagsChangeOnlyInTheirSegment_acc :
    step ((withRegs (atPos 21)).withInput (.event 0b011) []) =
      .next (after ((withRegs (atPos 21)).withInput (.event 0b011) [])) ∧
    (¬ ((withRegs (atPos 21)).withInput (.event 0b011) []).resetNext) ∧
    (after ((withRegs (atPos 21)).withInput (.event 0b011) [])).regs.acc .minute ≠ (atPos 21).acc .minute ∧
    (after ((withRegs (atPos 57)).withInput (.event 0b011) [])).regs.acc .date ≠ (atPos 57).acc .date :=
  ⟨rfl, no_reset _ _ _ (by decide), by decide, by decide⟩
/-- A capture changing at its end slot (A-8). -/
theorem witness_ParityFlagsChangeOnlyInTheirSegment_cap :
    step ((withRegs { atPos 58 with accDate := true }).withInput (.event 0b010) []) =
      .next (after ((withRegs { atPos 58 with accDate := true }).withInput (.event 0b010) [])) ∧
    (¬ ((withRegs { atPos 58 with accDate := true }).withInput (.event 0b010) []).resetNext) ∧
    (after ((withRegs { atPos 58 with accDate := true }).withInput (.event 0b010) [])).regs.cap .date ≠
      (atPos 58).cap .date :=
  ⟨rfl, no_reset _ _ _ (by decide), by decide⟩
/-- The last step of P1, in which the calendar moves and `LAST_FINALIZE` and `LAST_RISING` change. -/
def endOfP1 : State := (withRegs { regsF1 with lastRising := 59000 }).withInput (edgeCmd true 61000) []
theorem witness_CalendarMovesAsOneUnit :
    step endOfP1 = .next (after endOfP1) ∧
    ¬ endOfP1.resetNext ∧
    (after endOfP1).regs.time.minute ≠ endOfP1.regs.time.minute := ⟨rfl, no_reset _ _ _ (by decide), by decide⟩
theorem witness_LastFinalizeIsTheFinalizeTime :
    step endOfP1 = .next (after endOfP1) ∧
    ¬ endOfP1.resetNext ∧
    (after endOfP1).regs.lastFinalize ≠ endOfP1.regs.lastFinalize := ⟨rfl, no_reset _ _ _ (by decide), by decide⟩
/-- The same under SUCCESS_ONLY. -/
theorem witness_LastFinalizeIsTheFinalizeTime_successOnly :
    ∃ s : State, s.cfg.refreshPolicy = .successOnly ∧ step s = .next (after s) ∧
      ¬ s.resetNext ∧
      (after s).regs.lastFinalize ≠ s.regs.lastFinalize :=
  ⟨({ withRegs regsF1 with cfg := { refreshPolicy := .successOnly } } : State).withInput (.event (61000 * 8 + 0b110)) [],
    rfl, rfl, no_reset _ _ _ (by decide), by decide⟩
theorem witness_LastRisingMovesOnlyOnAcceptedEdges :
    step endOfP1 = .next (after endOfP1) ∧
    ¬ endOfP1.resetNext ∧
    (after endOfP1).regs.lastRising ≠ endOfP1.regs.lastRising := ⟨rfl, no_reset _ _ _ (by decide), by decide⟩
theorem witness_StaleAccumulatorsNeverReachACapture :
    ({ regsF1 with pos := 0, accMin := true } : Regs).pos = 0 := rfl
/-- Twenty-eight appends bring `POS` to the minute parity slot. -/
theorem witness_CaptureIsXorOfSegmentAppends :
    Regs.reset.pos = 0 ∧
    (Regs.run {} (List.replicate 28 (.append true, 0)) Regs.reset).pos.toNat = segEnd .minute :=
  ⟨rfl, by decide +kernel⟩
/-- A frame that reaches a parity slot exactly, one that stops just before it, and a whole one. -/
theorem witness_GlitchFreeFrameIsReceived :
    Regs.reset.pos = 0 ∧ Regs.reset.frame = 0 ∧ (List.replicate 59 true).length ≤ 59 ∧
    segEnd .minute < (List.replicate 29 true).length ∧ (List.replicate 28 true).length ≤ segEnd .minute ∧
    segEnd .date < (List.replicate 59 true).length := by decide
theorem witness_GlitchFreeFramePassesIff :
    (atPos 0).pos = 0 ∧ (atPos 0).frame = 0 ∧ (frameBits frameL1 59).length ≤ 59 :=
  ⟨rfl, rfl, by simp [frameBits]⟩
/-- The first and the last slot of a segment that is not its start slot. -/
theorem witness_RewrittenSlotTable :
    segStart .minute < (atPos 22).pos.toNat ∧ (atPos 22).pos.toNat < segEnd .minute ∧
    slot (atPos 22).frame (atPos 22).pos.toNat = false ∧
    segStart .date < (atPos 57).pos.toNat ∧ (atPos 57).pos.toNat < segEnd .date ∧
    slot (atPos 57).frame (atPos 57).pos.toNat = false := by decide
/-- F-6 and F-7. -/
theorem witness_EmptyFrameZeroesOrKeepsTime :
    (atPos 0).frame = 0 ∧ (atPos 0).capMin = false ∧ (atPos 0).capHour = false ∧ (atPos 0).capDate = false ∧
    ({ atPos 0 with capMin := true } : Regs).frame = 0 ∧ ({ atPos 0 with capMin := true } : Regs).capMin = true := by
  decide
/-- Under each policy, at an age of exactly `T_FRESH`. -/
theorem witness_FailedFinalizeAndFreshness :
    ({ regsF1 with capMin := false, time := timeL1 } : Regs).parityOk = false ∧
    ({} : Cfg).refreshPolicy = .anyFinalize ∧ timeL1.day ≠ 0 ∧ timeL1.month ≠ 0 ∧
    gap ({} : Params).W 241000 121000 ≤ ({} : Params).tFresh ∧
    ({ refreshPolicy := .successOnly } : Cfg).refreshPolicy = .successOnly := by decide
/-- The bounds of the three cases (E-18 to E-20). -/
theorem witness_FirstRisingEdgeAfterReset :
    (1201 : Nat) < 2 ^ State.reset.params.W ∧ (1201 : Nat) > 1200 ∧ (299 : Nat) < 300 ∧ (300 : Nat) ≤ 300 ∧ (300 : Nat) ≤ 1200 ∧
    (300 : Nat) ≤ 1200 ∧ (1200 : Nat) ≤ 1200 := by decide
theorem witness_NonDecreasingClockIsKept :
    (atSlot5.withInput (edgeCmd true 11000) []).ClockKept ∧
    (atSlot5.withInput (edgeCmd true 11000) []).inputs = { cfg := {}, input := edgeCmd true 11000 } :: [] ∧
    inputInstr 32 (edgeCmd true 11000) = some (.edge true 11000) ∧ eventTime (.edge true 11000) = some 11000 :=
  ⟨⟨10000, by decide, by decide, by decide⟩, rfl, by decide, rfl⟩
/-- An edge, a query, then a reset that changes the configuration, and an edge under the new one. -/
theorem witness_AdmissibleRunsNeverStop :
    admissible 32 {} [{ cfg := {}, input := edgeCmd true 1000, queries := [{ word := 0x1DC91 }] },
      { cfg := inverted, input := .reset }, { cfg := inverted, input := edgeCmd false 1000 }] = true := by decide
/-- The environment's contract kept by a state (statement AdmissibleStepKeepsContract). -/
theorem witness_AdmissibleStepKeepsContract :
    admissible (atSlot5.withInput (edgeCmd true 11000) [{ word := 0 }]).params.W atSlot5.cfg
      (atSlot5.withInput (edgeCmd true 11000) [{ word := 0 }]).inputs = true := by decide
/-- A query beside a command (statement QueriesDisturbNothing, second clause). -/
theorem witness_QueriesDisturbNothing_same_step :
    (atSlot5.withInput (edgeCmd true 11000) [{ word := 0 }, { word := 0x1DC91, boundary := .after }]).inputs =
      { cfg := {}, input := edgeCmd true 11000,
        queries := [{ word := 0 }, { word := 0x1DC91, boundary := .after }] } :: [] ∧
    step (atSlot5.withInput (edgeCmd true 11000) []) = .next (after (atSlot5.withInput (edgeCmd true 11000) [])) :=
  ⟨rfl, rfl⟩
/-- P1: the first edge at 1000, the bounds 300 and 1200, and the least width. -/
theorem witness_BroadcastMinuteIsDecoded :
    ∃ s : State, s.params = { W := 17 } ∧ 17 ≤ 17 ∧ s.regs.pos = 0 ∧ s.regs.frame = 0 ∧ timeL1.correct = true ∧
      300 ≤ gap 17 1000 s.regs.lastRising ∧ gap 17 1000 s.regs.lastRising ≤ 1200 ∧
      300 ≤ gap 17 300 s.regs.lastRising ∧ gap 17 1200 s.regs.lastRising ≤ 1200 ∧
      s.inputs = programStimuli s.cfg [.minute (telegram 0 timeL1) 1000, .rise (1000 + 60000)] ++ [] :=
  ⟨{ State.reset with
      params := { W := 17 }
      inputs := programStimuli {} [.minute (telegram 0 timeL1) 1000, .rise (1000 + 60000)] ++ [] },
    rfl, by decide, rfl, rfl, by decide, by decide, by decide, by decide, by decide, rfl⟩
/-- The first and the last slot of each clause. -/
theorem witness_SingleBitFlipIsRejected :
    Regs.reset.pos = 0 ∧ Regs.reset.frame = 0 ∧ timeL1.correct = true ∧ 21 ≤ 21 ∧ 21 ≤ 58 ∧ 58 ≤ 58 ∧ 20 ≤ 20 := by
  decide

end Sys2Proof.Tests
end

/-! ## The words of the three ports

Taking an input word apart again: its port field, the word below it, and the fields of that word. -/

namespace Sys2Proof

open Sys2Proof.Laws Sys2Proof.Laws.TableRow

/-- `cmd_op` of a command word (R70). -/
@[simp] theorem cmdOp_commandWord (ts : Nat) (op : BitVec 3) : cmdOp (commandWord ts op) = op :=
  ofNat_slice_op ts op

/-- `cmd_ts` of a command word: a timestamp past `2^W - 1` goes on the port modulo `2^W` (R70, log 2). -/
@[simp] theorem cmdTs_commandWord (W ts : Nat) (op : BitVec 3) : cmdTs W (commandWord ts op) = ts % 2 ^ W :=
  slice_high ts op.toNat 3 W op.isLt

/-- `q_op` of a query word (R75). -/
@[simp] theorem queryOp_queryWord (now : Nat) (op : BitVec 1) : queryOp (queryWord now op) = op :=
  ofNat_slice_op now op

/-- `q_now` of a query word (R75). -/
@[simp] theorem queryNow_queryWord (W now : Nat) (op : BitVec 1) : queryNow W (queryWord now op) = now % 2 ^ W :=
  slice_high now op.toNat 1 W op.isLt

/-- An event word `{ts, SEV}` stands for its code with its timestamp (log 8). -/
theorem decodeEvent_eventWord (W ts : Nat) (sev : SevCode) :
    decodeEvent W (eventWord sev ts) = decodeSev sev (ts % 2 ^ W) :=
  congrArg₂ decodeSev (ofNat_slice_op ts sev) (slice_high ts sev.toNat 3 W sev.isLt)

/-- `cmd_op = 0b00L` is EDGE with level `L` (R71). -/
theorem decodeCommand_edge (W ts : Nat) (l : Bool) :
    decodeCommand W (commandWord ts (0b00#2 ++ BitVec.ofBool l)) = .edge l (ts % 2 ^ W) := by
  cases l <;> simp [decodeCommand]

/-- `cmd_op = 0b1xx` is reserved, with its two low bits as the operand (R73). -/
theorem decodeCommand_reserved1xx (W ts : Nat) (opLow : BitVec 2) :
    decodeCommand W (commandWord ts (1#1 ++ opLow)) = .reserved1xx opLow (ts % 2 ^ W) := by
  have codes : ∀ x : BitVec 2, 1#1 ++ x ≠ 0b000#3 ∧ 1#1 ++ x ≠ 0b001#3 ∧ 1#1 ++ x ≠ 0b010#3 ∧
    1#1 ++ x ≠ 0b011#3 ∧ (1#1 ++ x).extractLsb' 0 2 = x := by decide
  obtain ⟨h0, h1, h2, h3, hlow⟩ := codes opLow
  simp [decodeCommand, h0, h1, h2, h3, hlow]

section
variable (W : Nat) (port : BitVec 2) (word : Nat)

/-- The command word, or event word, of an input word. -/
theorem inputBody_onPort (h : word < 2 ^ (W + 3)) : inputBody W (onPort W port word) = word := by
  rw [inputBody, onPort, slice_low _ _ _ _ _ (by omega), slice_all _ _ h]

/-- The query word of an input word. -/
theorem inputQuery_onPort (h : word < 2 ^ (W + 1)) : inputQuery W (onPort W port word) = word := by
  rw [inputQuery, onPort, slice_low _ _ _ _ _ (by omega), slice_all _ _ h]

/-- An input word has `W + 5` bits. -/
theorem onPort_lt (h : word < 2 ^ (W + 3)) : onPort W port word < 2 ^ (W + 5) := by
  have hp : port.toNat ≤ 3 := Nat.le_of_lt_succ port.isLt
  calc onPort W port word < (port.toNat + 1) * 2 ^ (W + 3) := by rw [onPort, Nat.succ_mul]; omega
    _ ≤ 2 ^ 2 * 2 ^ (W + 3) := Nat.mul_le_mul_right _ (by omega)
    _ = 2 ^ (W + 5) := by rw [← Nat.pow_add]; congr 1; omega

end

section
variable {W ts : Nat}

/-- Port 0: a command word is read by the command port's decoder (log 9). -/
theorem decodeInputWord_command (op : BitVec 3) (h : ts < 2 ^ W) :
    decodeInputWord W (onPort W 0 (commandWord ts op)) = some (decodeCommand W (commandWord ts op)) := by
  have hw : commandWord ts op < 2 ^ (W + 3) := word_lt W ts op h
  rw [decodeInputWord, port_onPort W 0 _ hw, inputBody_onPort W 0 _ hw]
  rfl

/-- Port 1: a query word is read by the query port's decoder (log 9). -/
theorem decodeInputWord_query (op : BitVec 1) (h : ts < 2 ^ W) :
    decodeInputWord W (onPort W 1 (queryWord ts op)) = some (decodeQuery W (queryWord ts op)) := by
  rw [decodeInputWord, (statement_query W ts op h).1, inputQuery_onPort W 1 _ (query_lt W ts op h)]
  rfl

/-- Port 2: an event word is read by the semantic events' decoder (log 9). -/
theorem decodeInputWord_event (sev : SevCode) (h : ts < 2 ^ W) :
    decodeInputWord W (onPort W 2 (eventWord sev ts)) = some (decodeSev sev ts) := by
  have hw : eventWord sev ts < 2 ^ (W + 3) := word_lt W ts sev h
  rw [decodeInputWord, port_onPort W 2 _ hw, inputBody_onPort W 2 _ hw]
  show some (decodeEvent W (eventWord sev ts)) = _
  rw [decodeEvent_eventWord, Nat.mod_eq_of_lt h]

end

/-- Every input word an instruction is encoded as has `W + 5` bits. -/
theorem encode_lt {W : Nat} {i : Instr} (h : i.fits W) : encode W i < 2 ^ (W + 5) := by
  have query_lt' (op : BitVec 1) : queryWord i.timestamp op < 2 ^ (W + 3) :=
    (query_lt W _ op h).trans_le (Nat.pow_le_pow_right (by decide) (by omega))
  cases i with
  | getTime now | synced now => exact onPort_lt W 1 _ (query_lt' _)
  | edge | tick | reserved011 | reserved1xx => exact onPort_lt W 0 _ (word_lt W _ _ h)
  | sevSecond | sevAppend | sevGlitch | sevFinalize | sevReserved001 | sevReserved101 | sevReserved111 =>
    exact onPort_lt W 2 _ (word_lt W _ _ h)

/-- What is encoded is decoded: the port tag selects the decoder, and the decoder reads the code and the operand
back. -/
theorem decodeInputWord_encode {W : Nat} {i : Instr} (h : i.fits W) : decodeInputWord W (encode W i) = some i := by
  have hts : i.timestamp % 2 ^ W = i.timestamp := Nat.mod_eq_of_lt h
  cases i with
  | edge l ts =>
    exact (decodeInputWord_command _ h).trans (by simpa [decodeCommand_edge, Instr.timestamp] using hts)
  | tick ts | reserved011 ts =>
    exact (decodeInputWord_command _ h).trans (by simpa [decodeCommand, Instr.timestamp] using hts)
  | reserved1xx opLow ts =>
    exact (decodeInputWord_command _ h).trans
      (by simpa [decodeCommand_reserved1xx, Instr.timestamp] using hts)
  | getTime now | synced now =>
    exact (decodeInputWord_query _ h).trans (by simpa [decodeQuery, Instr.timestamp] using hts)
  | sevAppend v ts => exact (decodeInputWord_event _ h).trans (by cases v <;> rfl)
  | sevSecond | sevGlitch | sevFinalize | sevReserved001 | sevReserved101 | sevReserved111 =>
    exact decodeInputWord_event _ h

/-- The table's decoder reads back a word of the default width. -/
theorem decodeTableWord_encode {i : Instr} (h : i.fits defaultW) :
    decodeTableWord (defaultW + 5) (encode defaultW i) = some i := by
  rw [decodeTableWord, tableInputWord, slice_all _ _ (encode_lt h), decodeInputWord_encode h]

/-- Settles O6: each port's decoder undoes its row's encoding (`decodeInputWord_encode`). -/
theorem decodeEncodeAgree : Obligations.DecodeEncodeAgree := by
  unfold Obligations.DecodeEncodeAgree
  exact fun _ _ h => decodeInputWord_encode h

end Sys2Proof

/-! ## A step performs the instruction presented -/

namespace Sys2Proof.Machine

open Sys2Proof.Laws

/-- A query is answered alike at both boundaries of an idle step, which changes no register (R57, R72). -/
theorem State.ask_pick_performIdle (s : State) (b : Boundary) (qw : Nat) :
    (b.pick s s.performIdle).ask qw = s.ask qw := by
  cases b with
  | before => rfl
  | after => simp [State.ask_value]

/-- The step of a state whose next stimulus presents one query and no command is `exec` of the query. -/
theorem step_of_query {s : State} {q : Query} {rest : List Stimulus}
    (hs : s.inputs = { cfg := s.cfg, input := .idle, queries := [q] } :: rest) :
    step s = exec (decodeQuery s.params.W q.word) { s with inputs := rest } := by
  obtain ⟨a, hask, hexec⟩ := State.ask_eq { s with inputs := rest } q.word
  have hidle : { s with inputs := rest }.perform { cfg := s.cfg, input := .idle, queries := [q] } =
      .next { s with inputs := rest }.performIdle := rfl
  calc step s
      = .next ({ s with inputs := rest }.answering { s with inputs := rest }.performIdle [q]) :=
        step_of_perform hs (fun _ => rfl) hidle
    _ = .next ({ s with inputs := rest }.afterQuery a) := by
        rw [State.answering, List.flatMap_singleton, State.ask_pick_performIdle, hask]; rfl
    _ = exec (decodeQuery s.params.W q.word) { s with inputs := rest } := hexec.symm

/-- The step of a state that an input word was put before is `exec` of the instruction the word holds (log 9). -/
theorem step_withInputWord {s : State} {iw : Nat} {i : Instr} (h : decodeInputWord s.params.W iw = some i) :
    step (s.withInputWord iw) = exec i s := by
  unfold decodeInputWord at h
  unfold State.withInputWord
  split_ifs at h ⊢ with h0 h1 h2 <;> cases h
  · exact step_of_instr (s := s.withInput (.command _) []) rfl rfl
  · exact step_of_query (s := s.withInput .idle [_]) rfl
  · exact step_of_instr (s := s.withInput (.event _) []) rfl rfl

/-- Settles O9: a command or an event by `step_of_instr`, a query by `step_of_query`. -/
theorem stepRunsDecodedInstruction : Obligations.StepRunsDecodedInstruction := by
  unfold Obligations.StepRunsDecodedInstruction
  refine ⟨fun s x i rest hs hi => ?_, fun s q rest hs => step_of_query hs⟩
  obtain ⟨cw, rfl, rfl⟩ | ⟨ew, rfl, rfl⟩ := hi
  · exact step_of_instr hs rfl
  · exact step_of_instr hs rfl

/-- Settles O7: the word put before the inputs decodes to its instruction, and the next step performs that. -/
theorem fetchedWordRunsNext : Obligations.FetchedWordRunsNext := by
  unfold Obligations.FetchedWordRunsNext
  refine ⟨fun i h => decodeTableWord_encode h, fun i s h => ?_⟩
  rw [State.withFetchWord, tableInputWord, slice_all _ _ (encode_lt h)]
  exact step_withInputWord (decodeInputWord_encode h)

end Sys2Proof.Machine

/-! ## The frame of a telegram

What the encoder of R80 to R84 puts into each slot, and that the block's decoding of a correct telegram is the encoded
time. -/

namespace Sys2Proof.Machine

open Sys2Proof.Laws

/-- The BCD code of a value of at most two digits, as a number (R83). -/
theorem toNat_bcdEncode : ∀ d : Byte, d.toNat ≤ 99 →
    (bcdEncode d).toNat = d.toNat / 10 * 16 + d.toNat % 10 := by decide

/-- A byte goes unchanged through a field that it fits (R82). -/
theorem setWidth_setWidth_of_lt {b : Byte} {w : Nat} (h : b.toNat < 2 ^ w) : (b.setWidth w).setWidth 8 = b := by
  apply BitVec.eq_of_toNat_eq
  rw [BitVec.toNat_setWidth, BitVec.toNat_setWidth, Nat.mod_eq_of_lt h, Nat.mod_eq_of_lt b.isLt]

/-- A value of at most two digits whose BCD code fits a field is read back from it (R82, R83, R142). -/
theorem bcd2dec_bcdEncode_field {d : Byte} {w : Nat} (h99 : d.toNat ≤ 99)
    (hw : d.toNat / 10 * 16 + d.toNat % 10 < 2 ^ w) :
    bcd2dec (((bcdEncode d).setWidth w).setWidth 8) = d := by
  have he := toNat_bcdEncode d h99
  rw [setWidth_setWidth_of_lt (by rwa [he])]
  apply BitVec.eq_of_toNat_eq
  rw [toNat_bcd2dec, he]
  omega

/-- The ranges of a correct time, as numbers (R151). -/
theorem DecodedTime.ranges_of_correct {t : DecodedTime} (h : t.correct = true) :
    t.second = 0 ∧ t.minute.toNat ≤ 59 ∧ t.hour.toNat ≤ 23 ∧ t.day.toNat ≤ 31 ∧ t.weekday.toNat ≤ 7 ∧
      t.month.toNat ≤ 12 ∧ t.year.toNat ≤ 99 := by
  simp only [correct, Bool.and_eq_true, decide_eq_true_eq, beq_iff_eq, BitVec.le_def] at h
  obtain ⟨⟨⟨⟨⟨⟨⟨⟨hs, hmin⟩, hh⟩, -⟩, hd⟩, hwd⟩, -⟩, hmon⟩, hy⟩ := h
  exact ⟨hs, hmin, hh, hd, hwd, hmon, hy⟩

section
variable (u : BitVec 21) (t : DecodedTime) (a b d : Bool)

/-- Each field of the frame holds its value, in the layout of R80. -/
theorem fields_frameWith :
    minuteField (frameWith u t a b d) = ((bcdEncode t.minute).setWidth 7).setWidth 8 ∧
    hourField (frameWith u t a b d) = ((bcdEncode t.hour).setWidth 6).setWidth 8 ∧
    dayField (frameWith u t a b d) = ((bcdEncode t.day).setWidth 6).setWidth 8 ∧
    weekdayField (frameWith u t a b d) = (t.weekday.setWidth 3).setWidth 8 ∧
    monthField (frameWith u t a b d) = ((bcdEncode t.month).setWidth 5).setWidth 8 ∧
    yearField (frameWith u t a b d) = ((bcdEncode t.year).setWidth 8).setWidth 8 := by
  simp (disch := decide) only
    [minuteField, hourField, dayField, weekdayField, monthField, yearField, field, frameWith, extract_low]
  refine ⟨?_, ?_, ?_, ?_, ?_, ?_⟩
  all_goals exact congrArg _ (extract_high ..)

/-- The parity slots hold the given parity bits (R84). -/
theorem slot_frameWith_parity :
    slot (frameWith u t a b d) 28 = a ∧ slot (frameWith u t a b d) 35 = b ∧ slot (frameWith u t a b d) 58 = d := by
  simp only [slot, frameWith, BitVec.getLsbD_append]
  simp

/-- The parity bits are in no other slot (R84). -/
theorem slot_frameWith_congr (a' b' d' : Bool) (q : Nat) (h1 : q ≠ 28) (h2 : q ≠ 35) (h3 : q ≠ 58) :
    slot (frameWith u t a b d) q = slot (frameWith u t a' b' d') q := by
  simp only [slot, frameWith, BitVec.getLsbD_append]
  obtain h | h | h | h : q < 28 ∨ 28 < q ∧ q < 35 ∨ 35 < q ∧ q < 58 ∨ 58 < q := by omega
  all_goals simp (disch := omega) only [if_pos, if_neg]

/-- Slot 59 and the bits above are 0 (R80). -/
theorem slot_frameWith_of_ge (q : Nat) (h : 59 ≤ q) : slot (frameWith u t a b d) q = false := by
  simp only [slot, frameWith, BitVec.getLsbD_append]
  rw [if_neg (by omega), BitVec.getLsbD_zero]

variable {t} in
/-- Decoding the fields of a correct time gives the time (R141, R142, R144, R151). -/
theorem decodeFrame_frameWith (h : t.correct = true) : decodeFrame (frameWith u t a b d) = t := by
  obtain ⟨hs, hmin, hh, hd, hwd, hmon, hy⟩ := t.ranges_of_correct h
  have hweekday : bcd2dec ((t.weekday.setWidth 3).setWidth 8) = t.weekday := by
    rw [setWidth_setWidth_of_lt (by omega), bcd2dec_of_lt _ (by omega)]
  simp (disch := omega) only [decodeFrame, fields_frameWith, hweekday, bcd2dec_bcdEncode_field]
  rw [← hs]

end

/-- The XOR of a segment reads the slots of the segment alone (R84). -/
theorem segXor_congr {f f' : FrameWord} {g : Seg}
    (h : ∀ q, segStart g ≤ q → q < segEnd g → slot f q = slot f' q) : segXor f g = segXor f' g := by
  refine List.foldl_ext _ _ _ fun x k hk => ?_
  have := List.mem_range.mp hk
  rw [h _ (by omega) (by omega)]

/-- Each parity slot of a telegram is the XOR of its segment (R84). -/
theorem slot_telegram_segEnd (u : BitVec 21) (t : DecodedTime) (g : Seg) :
    slot (telegram u t) (segEnd g) = segXor (telegram u t) g := by
  have hseg : segXor (telegram u t) g = segXor (frameWith u t false false false) g :=
    segXor_congr fun q h1 h2 => by
      apply slot_frameWith_congr <;> cases g <;> simp only [segStart, segEnd] at h1 h2 <;> omega
  obtain ⟨hmin, hhour, hdate⟩ := slot_frameWith_parity u t (segXor (frameWith u t false false false) .minute)
    (segXor (frameWith u t false false false) .hour) (segXor (frameWith u t false false false) .date)
  rw [hseg]
  cases g with
  | minute => exact hmin
  | hour => exact hhour
  | date => exact hdate

end Sys2Proof.Machine

/-! ## Receiving a frame without glitches -/

namespace Sys2Proof.Machine

open Sys2Proof.Laws

/-- The XOR of `n` slots of a frame from slot `o` on: what an accumulator holds inside its segment (R122). -/
def slotsXor (f : FrameWord) (o n : Nat) : Bool := (List.range n).foldl (fun x k => x ^^ slot f (o + k)) false

theorem slotsXor_succ (f : FrameWord) (o n : Nat) : slotsXor f o (n + 1) = (slotsXor f o n ^^ slot f (o + n)) := by
  simp [slotsXor, List.range_succ]

/-- The XOR of a segment is that of all its slots (R84). -/
theorem segXor_eq_slotsXor (f : FrameWord) (g : Seg) : segXor f g = slotsXor f (segStart g) (segEnd g - segStart g) :=
  rfl

/-- Registers that have received slots 0 to `n - 1` of the frame `f` with no glitch since the frame was cleared: the
slots, the position, and the parity flags of the segments reached (R120 to R124). -/
structure Regs.HasReceived (f : FrameWord) (n : Nat) (r : Regs) : Prop where
  pos : r.pos.toNat = n
  frame : ∀ q, q < 64 → slot r.frame q = (decide (q < n) && slot f q)
  acc : ∀ g, segStart g < n → r.acc g = slotsXor f (segStart g) (min n (segEnd g) - segStart g)
  cap : ∀ g, segEnd g < n → r.cap g = segXor f g

/-- A cleared frame has received nothing yet, whatever the parity flags hold. -/
theorem Regs.HasReceived.of_cleared {r : Regs} (f : FrameWord) (hp : r.pos = 0) (hf : r.frame = 0) :
    r.HasReceived f 0 where
  pos := by rw [hp]; rfl
  frame q _ := by simp [hf]
  acc _ h := absurd h (Nat.not_lt_zero _)
  cap _ h := absurd h (Nat.not_lt_zero _)

/-- `LAST_RISING` is no part of what is received. -/
theorem Regs.HasReceived.riseSecond {f : FrameWord} {n : Nat} {r : Regs} (h : r.HasReceived f n) (ts : Nat) :
    (r.riseSecond ts).HasReceived f n := ⟨h.pos, h.frame, h.acc, h.cap⟩

theorem segStart_lt_segEnd (g : Seg) : segStart g < segEnd g := by cases g <;> decide

/-- Each accumulator after steps 1 to 3 of an APPEND (R122). -/
theorem Regs.appendAt_acc (r : Regs) (c : Cfg) (p : Nat) (v : Bool) (g : Seg) :
    (r.appendAt c p v).acc g = accNext g p v (r.acc g) := by cases g <;> rfl

/-- Each capture after steps 1 to 3 of an APPEND (R123). -/
theorem Regs.appendAt_cap (r : Regs) (c : Cfg) (p : Nat) (v : Bool) (g : Seg) :
    (r.appendAt c p v).cap g = capNext g p (r.acc g) (r.cap g) := by cases g <;> rfl

/-- An APPEND leaves `LAST_RISING` alone, also when it finalizes (R105, R120). -/
@[simp] theorem Regs.append_lastRising (r : Regs) (c : Cfg) (v : Bool) (ts : Nat) :
    (r.append c v ts).lastRising = r.lastRising := by
  obtain h | h := Nat.lt_or_ge r.pos.toNat 59
  · rw [Regs.append_of_lt r c v ts h]; rfl
  · rw [Regs.append_of_ge r c v ts h]; simp

/-- The XOR of a segment's slots up to slot `n`, one slot on (R122). -/
theorem accNext_slotsXor {f : FrameWord} {g : Seg} {n : Nat} {x : Bool} (hn : segStart g ≤ n)
    (hx : segStart g < n → x = slotsXor f (segStart g) (min n (segEnd g) - segStart g)) :
    accNext g n (slot f n) x = slotsXor f (segStart g) (min (n + 1) (segEnd g) - segStart g) := by
  have hlt := segStart_lt_segEnd g
  obtain rfl | hstart := hn.eq_or_lt
  · have : min (segStart g + 1) (segEnd g) - segStart g = 0 + 1 := by omega
    rw [accNext_at_start, this, slotsXor_succ]
    simp [slotsXor]
  obtain hin | hout := Nat.lt_or_ge n (segEnd g)
  · have h0 : min n (segEnd g) - segStart g = n - segStart g := by omega
    have h1 : min (n + 1) (segEnd g) - segStart g = n - segStart g + 1 := by omega
    rw [accNext_inside g n _ _ hstart hin, hx hstart, h0, h1, slotsXor_succ, Nat.add_sub_cancel' hn]
  · have : min (n + 1) (segEnd g) = min n (segEnd g) := by omega
    rw [accNext_outside g n _ _ (.inr hout), hx hstart, this]

/-- Appending the next slot's bit receives that slot, in both write modes (R120 to R124). -/
theorem Regs.HasReceived.append {f : FrameWord} {n : Nat} {r : Regs} (h : r.HasReceived f n) (hn : n < 59)
    (c : Cfg) (ts : Nat) : (r.append c (slot f n) ts).HasReceived f (n + 1) := by
  have hp : r.pos.toNat < 59 := h.pos ▸ hn
  rw [Regs.append_of_lt r c _ ts hp, h.pos]
  refine ⟨?pos, fun q hq => ?frame, fun g hg => ?acc, fun g hg => ?cap⟩
  case pos => exact (toNat_pos_succ _ hp).trans (congrArg (· + 1) h.pos)
  case frame =>
    show slot (writeSlot c.frameWrite r.frame n (slot f n)) q = _
    rw [slot_writeSlot _ _ _ _ _ hq, h.frame q hq]
    by_cases hqn : q = n
    · subst hqn
      cases c.frameWrite <;> simp
    · have : q < n + 1 ↔ q < n := by omega
      simp [hqn, this]
  case acc =>
    exact (Regs.appendAt_acc r c n _ g).trans (accNext_slotsXor (Nat.le_of_lt_succ hg) (h.acc g))
  case cap =>
    refine (Regs.appendAt_cap r c n _ g).trans ?_
    obtain rfl | hlt := (Nat.le_of_lt_succ hg).eq_or_lt
    · rw [capNext_at_end, h.acc g (segStart_lt_segEnd g), Nat.min_self, segXor_eq_slotsXor]
    · rw [capNext_elsewhere g n _ _ (by omega), h.cap g hlt]

/-- A telegram received whole passes the parity validation (R143). -/
theorem Regs.HasReceived.parityOk_telegram {u : BitVec 21} {t : DecodedTime} {r : Regs}
    (h : r.HasReceived (telegram u t) 59) : r.parityOk = true := by
  have hcap (g : Seg) : r.cap g = slot r.frame (segEnd g) := by
    have hg : segEnd g < 59 := by cases g <;> decide
    rw [h.cap g hg, h.frame _ (by omega), slot_telegram_segEnd]
    simp [hg]
  exact (parityOk_iff r).mpr ⟨hcap .minute, hcap .hour, hcap .date⟩

/-- A telegram received whole is the frame that was sent (R51, R80). -/
theorem Regs.HasReceived.frame_eq_telegram {u : BitVec 21} {t : DecodedTime} {r : Regs}
    (h : r.HasReceived (telegram u t) 59) : r.frame = telegram u t := by
  refine frame_ext _ _ fun q hq => ?_
  rw [h.frame q hq]
  obtain hlt | hge := Nat.lt_or_ge q 59
  · simp [hlt]
  · rw [show slot (telegram u t) q = false from slot_frameWith_of_ge _ _ _ _ _ q hge, Bool.and_false]

/-- A finalize of a correct telegram received whole publishes its time (R140 to R146). -/
theorem Regs.HasReceived.finalize_telegram {u : BitVec 21} {t : DecodedTime} {r : Regs}
    (h : r.HasReceived (telegram u t) 59) (ht : t.correct = true) (c : Cfg) (now : Nat) :
    (r.finalize c now).time = t ∧ (r.finalize c now).lastFinalize = now := by
  have hok := h.parityOk_telegram
  rw [Regs.finalize_time, Regs.finalize_lastFinalize, if_pos hok, if_pos (.inr hok), h.frame_eq_telegram]
  exact ⟨decodeFrame_frameWith _ _ _ _ ht, rfl⟩

end Sys2Proof.Machine

/-! ## A broadcast minute on the command port -/

namespace Sys2Proof.Machine

/-- A run goes on from where its first part ended. -/
theorem run_add_of_next (M : Host.Core) {s t : M.State} {j : Nat} (h : M.run j s = .next t) (k : Nat) :
    M.run (j + k) s = M.run k t := by
  induction j generalizing s with
  | zero => cases h; rw [Nat.zero_add]
  | succ j ih =>
    rw [Nat.succ_add, Host.Core.run]
    rw [Host.Core.run] at h
    split at h
    · exact ih h
    · cases h
    · cases h

/-- One step is a run of length one. -/
theorem run_one_of_step {s t : State} (h : step s = .next t) : Host.Core.run core 1 s = .next t := by
  simp [Host.Core.run, core, h]

/-- A later edge on the same side of a wrap: the gap grows by the time between (R10, R205). -/
theorem gap_add_left {W a b k : Nat} (h : gap W a b + k < 2 ^ W) : gap W (a + k) b = gap W a b + k := by
  unfold gap at h ⊢
  have hpos : (0 : Int) < ((2 ^ W : Nat) : Int) := Int.natCast_pos.mpr (Nat.two_pow_pos W)
  have h0 := Int.emod_nonneg ((a : Int) - b) (Int.ne_of_gt hpos)
  have e : ((a + k : Nat) : Int) - b = (a - b : Int) + k := by omega
  rw [e, ← Int.emod_add_emod, Int.emod_eq_of_lt (by omega) (by omega)]
  omega

/-- The gap between an edge and one `k` milliseconds later, also across a wrap (R10, R205). -/
theorem gap_add_self {W a k : Nat} (h : k < 2 ^ W) : gap W (a + k) a = k := by
  rw [gap_of_le W _ _ (by omega) (by omega)]; omega

/-- What `EDGE l @ts` on the command port, alone in its step, does to the registers (R86, R100). -/
theorem step_edgeInput {s : State} {l : Bool} {ts : Nat} {rest : List Stimulus}
    (hs : s.inputs = .ofInput s.cfg (edgeInput l ts) :: rest) :
    ∃ u, step s = .next u ∧ u.params = s.params ∧ u.cfg = s.cfg ∧ u.inputs = rest ∧
      u.regs = s.regs.perform s.cfg (classify s.params (effectiveLevel s.cfg l) (gap s.params.W ts s.regs.lastRising))
        (ts % 2 ^ s.params.W) := by
  have h : step s = exec (.edge l (ts % 2 ^ s.params.W)) { s with inputs := rest } :=
    step_of_instr hs (congrArg some (decodeCommand_edge _ ts l))
  refine ⟨_, h, rfl, rfl, rfl, ?_⟩
  rw [← gap_mod_left]
  rfl

/-- `RISE` is a rising edge under every configuration, and `FALL` a falling one (R87, R100). -/
@[simp] theorem effectiveLevel_xor_invertSignal (c : Cfg) (a : Bool) : effectiveLevel c (a ^^ c.invertSignal) = a := by
  simp [effectiveLevel]

/-- A rising edge inside the thresholds is a second (R100, R104). -/
theorem classify_second {p : Params} {d : Nat} (h1 : p.tGlitch ≤ d) (h2 : d ≤ p.tSync) :
    classify p true d = .second := by
  simp [classify, Nat.not_lt.mpr h1, Nat.not_lt.mpr h2]

/-- A rising edge past `T_SYNC` is a sync gap (R100, R102). -/
theorem classify_finalize {p : Params} {d : Nat} (h : p.tSync < d) : classify p true d = .finalize := by
  simp [classify, h]

/-- The pulse of `BIT b` is classified as `b` (R85, R87, R105). -/
theorem classify_pulse {W : Nat} (b : Bool) :
    classify { W := W } false (if b = true then 200 else 100) = .append b := by
  cases b <;> rfl

/-- The state before second `p` of a minute that began at `t0` and sends `f`: the slots before are received, and the
rising edge at `t0 + 1000 * p` will be inside the default thresholds of a second. -/
structure State.AtSecond (W : Nat) (c : Cfg) (f : FrameWord) (t0 p : Nat) (s : State) : Prop where
  params : s.params = { W := W }
  cfg : s.cfg = c
  received : s.regs.HasReceived f p
  le_gap : 300 ≤ gap W (t0 + 1000 * p) s.regs.lastRising
  gap_le : gap W (t0 + 1000 * p) s.regs.lastRising ≤ 1200

section
variable {W : Nat} {c : Cfg} {f : FrameWord} {t0 : Nat} (hW : 17 ≤ W)
include hW

/-- The times measured in a minute fit every timestamp width that R7 allows. -/
theorem lt_two_pow_of_width {d : Nat} (hd : d < 2 ^ 17) : d < 2 ^ W :=
  hd.trans_le (Nat.pow_le_pow_right (by decide) hW)

/-- The pulse of one second is received as the bit it sends (R85, R87, R100, R120). -/
theorem run_second {p : Nat} {s : State} {rest : List Stimulus} (h : s.AtSecond W c f t0 p) (hp : p < 59)
    (hs : s.inputs = (bitInputs c (slot f p) (t0 + 1000 * p)).map (.ofInput c) ++ rest) :
    ∃ u, Host.Core.run core 2 s = .next u ∧ u.AtSecond W c f t0 (p + 1) ∧ u.inputs = rest := by
  obtain ⟨hparams, rfl, hrec, hge, hle⟩ := h
  obtain ⟨v, hv, vparams, vcfg, vinputs, vregs⟩ := step_edgeInput hs
  rw [hparams, effectiveLevel_xor_invertSignal, classify_second hge hle] at vregs
  rw [← vcfg] at vinputs
  obtain ⟨u, hu, uparams, ucfg, uinputs, uregs⟩ := step_edgeInput vinputs
  have hlast : v.regs.lastRising = (t0 + 1000 * p) % 2 ^ W := by rw [vregs]; rfl
  have hpulse : (if slot f p = true then 200 else 100) < 2 ^ W := lt_two_pow_of_width hW (by split <;> decide)
  rw [vparams, hparams, effectiveLevel_xor_invertSignal, hlast, gap_mod_right, gap_add_self hpulse, classify_pulse]
    at uregs
  have hgap : gap W (t0 + 1000 * (p + 1)) u.regs.lastRising = 1000 := by
    have : u.regs.lastRising = v.regs.lastRising := by rw [uregs]; exact Regs.append_lastRising ..
    rw [this, hlast, gap_mod_right, Nat.mul_add, ← Nat.add_assoc]
    exact gap_add_self (lt_two_pow_of_width hW (by decide))
  refine ⟨u, (run_add_of_next core (run_one_of_step hv) 1).trans (run_one_of_step hu),
    ⟨uparams.trans (vparams.trans hparams), ucfg.trans vcfg, ?_, by omega, by omega⟩, uinputs⟩
  rw [uregs, vregs]
  exact (hrec.riseSecond _).append hp _ _

/-- Consecutive seconds are received one after the other (R87). -/
theorem run_seconds {n p : Nat} {s : State} {rest : List Stimulus} (h : s.AtSecond W c f t0 p) (hp : p + n ≤ 59)
    (hs : s.inputs = (secondsInputs c f t0 p n).map (.ofInput c) ++ rest) :
    ∃ u, Host.Core.run core (2 * n) s = .next u ∧ u.AtSecond W c f t0 (p + n) ∧ u.inputs = rest := by
  induction n generalizing p s with
  | zero => exact ⟨s, rfl, h, hs⟩
  | succ n ih =>
    rw [secondsInputs, List.map_append, List.append_assoc] at hs
    obtain ⟨v, hv, hsecond, vinputs⟩ := run_second hW h (by omega) hs
    obtain ⟨u, hu, hend, uinputs⟩ := ih hsecond (by omega) vinputs
    refine ⟨u, ?_, by rwa [Nat.add_right_comm, Nat.add_assoc] at hend, uinputs⟩
    rw [Nat.mul_succ, Nat.add_comm, run_add_of_next core hv, hu]

/-- The rising edge that ends the sync gap of a minute finalizes the frame (R100, R102). -/
theorem step_sync {s : State} {rest : List Stimulus} (h : s.AtSecond W c f t0 59)
    (hs : s.inputs = .ofInput c (riseInput c (t0 + 60000)) :: rest) :
    ∃ u, step s = .next u ∧ u.inputs = rest ∧ u.regs = s.regs.riseSync c ((t0 + 60000) % 2 ^ W) := by
  obtain ⟨hparams, rfl, -, hge, hle⟩ := h
  obtain ⟨u, hu, -, -, uinputs, uregs⟩ := step_edgeInput hs
  have hgap : 1200 < gap W (t0 + 60000) s.regs.lastRising :=
    calc 1200 < gap W (t0 + 1000 * 59) s.regs.lastRising + 1000 := by omega
      _ = gap W (t0 + 60000) s.regs.lastRising := (gap_add_left (lt_two_pow_of_width hW (by omega))).symm
  rw [hparams, effectiveLevel_xor_invertSignal, classify_finalize hgap] at uregs
  exact ⟨u, hu, uinputs, uregs⟩

end

/-- Settles O58: each second's pulse is received as its bit (`run_seconds`), and the sync gap's edge finalizes a frame
that is the telegram, with its parity flags (`Regs.HasReceived.finalize_telegram`). -/
theorem broadcastMinuteIsDecoded : Obligations.BroadcastMinuteIsDecoded := by
  unfold Obligations.BroadcastMinuteIsDecoded
  intro s unused t W t0 rest hparams hW hpos hframe ht hge hle hs
  have hstart : s.AtSecond W s.cfg (telegram unused t) t0 0 :=
    ⟨hparams, rfl, .of_cleared _ hpos hframe, hge, hle⟩
  have hinputs : s.inputs = (secondsInputs s.cfg (telegram unused t) t0 0 59).map (.ofInput s.cfg) ++
      .ofInput s.cfg (riseInput s.cfg (t0 + 60000)) :: rest := by
    rw [hs]
    simp [programStimuli, Line.stimuli, minuteInputs]
  obtain ⟨v, hv, hend, vinputs⟩ := run_seconds hW hstart (by decide) hinputs
  obtain ⟨u, hu, uinputs, uregs⟩ := step_sync hW hend vinputs
  obtain ⟨htime, hlast⟩ := hend.received.finalize_telegram ht s.cfg ((t0 + 60000) % 2 ^ W)
  refine ⟨u, (run_add_of_next core hv 1).trans (run_one_of_step hu), ?_⟩
  rw [uregs]
  exact ⟨htime, hlast, rfl, rfl, rfl, uinputs⟩

end Sys2Proof.Machine

/-! ## What a step does to the registers, with what was presented

The inversion of `step` that the whole-machine rules of R32 are read off: each change of a register is traced to the
instruction presented. -/

namespace Sys2Proof.Machine

/-- The next step presents the instruction `i` on the command port, or in its place. -/
def State.Presents (s : State) (i : Instr) : Prop :=
  ∃ x rest, s.inputs = x :: rest ∧ inputInstr s.params.W x.input = some i

/-- A presented instruction's timestamp operand has `W` bits (R70). -/
theorem State.Presents.fits {s : State} {i : Instr} (h : s.Presents i) : i.fits s.params.W := by
  obtain ⟨_, _, -, hi⟩ := h
  exact inputInstr_fits hi

/-- The instruction performs the semantic event `e` at `ts`: an EDGE classified as `e` (R100), or `e` presented by
itself (log 8). A FINALIZE presented by itself is apart, as it does not write `LAST_RISING`. -/
inductive State.Triggers (s : State) : Instr → Sev → Nat → Prop
  | edge (l : Bool) (ts : Nat) : s.Triggers (.edge l ts) (edgeSev s.params s.cfg s.regs.lastRising l ts) ts
  | second (ts : Nat) : s.Triggers (.sevSecond ts) .second ts
  | append (v : Bool) (ts : Nat) : s.Triggers (.sevAppend v ts) (.append v) ts
  | glitch (ts : Nat) : s.Triggers (.sevGlitch ts) .glitch ts

/-- A semantic event is performed at the timestamp presented. -/
theorem State.Triggers.timestamp_eq {s : State} {i : Instr} {e : Sev} {ts : Nat} (h : s.Triggers i e ts) :
    i.timestamp = ts := by
  cases h <;> rfl

/-- What a step from `s` can leave in the registers, and what has to be presented for it. -/
inductive State.StepEffect (s : State) : Regs → Prop
  | unchanged : s.StepEffect s.regs
  | reset (hr : s.resetNext) : s.StepEffect Regs.reset
  | tick {ts : Nat} (hi : s.Presents (.tick ts)) : s.StepEffect (tickRegs Config.tickFn s.regs)
  | event {i : Instr} {e : Sev} {ts : Nat} (hi : s.Presents i) (he : s.Triggers i e ts) :
      s.StepEffect (s.regs.perform s.cfg e ts)
  | finalize {now : Nat} (hi : s.Presents (.sevFinalize now)) : s.StepEffect (s.regs.finalize s.cfg now)

/-- Every step has one of the effects of `State.StepEffect`. -/
theorem step_effect {s t : State} (h : step s = .next t) : s.StepEffect t.regs := by
  obtain ⟨-, rfl⟩ | ⟨x, rest, u, hs, -, rfl, hu⟩ := step_next_cases h
  · exact .unchanged
  obtain ⟨hx, rfl⟩ | ⟨-, -, rfl⟩ | ⟨-, i, hi, hexec⟩ := perform_next_cases hu
  · exact .reset ⟨x, rest, hs, hx⟩
  · exact .unchanged
  have hp : s.Presents i := ⟨x, rest, hs, hi⟩
  obtain ⟨l, ts, rfl, rfl⟩ | ⟨ts, rfl, rfl⟩ | ⟨now, -, rfl⟩ | ⟨now, -, rfl⟩ | ⟨ts, rfl, rfl⟩ | ⟨v, ts, rfl, rfl⟩ |
    ⟨ts, rfl, rfl⟩ | ⟨now, rfl, rfl⟩ := exec_next_cases hexec
  · exact .event hp (.edge l ts)
  · exact .tick hp
  · exact .unchanged
  · exact .unchanged
  · exact .event hp (.second ts)
  · exact .event hp (.append v ts)
  · exact .event hp (.glitch ts)
  · exact .finalize hp

end Sys2Proof.Machine

/-! ## The invariant of R32

Each operation keeps `Regs.Inv`, and so does every effect of a step. -/

namespace Sys2Proof.Machine

/-- A finalize publishes values in the ranges of R151, whatever the frame. -/
theorem decodeFrame_inRange (f : FrameWord) : (decodeFrame f).InRange := by
  have hmin := toNat_field_lt f 21 7
  have hhour := toNat_field_lt f 29 6
  have hday := toNat_field_lt f 36 6
  have hweekday := toNat_field_lt f 42 3
  have hmonth := toNat_field_lt f 45 5
  have hyear := toNat_field_lt f 50 8
  simp only [DecodedTime.InRange, decodeFrame, minuteField, hourField, dayField, weekdayField, monthField, yearField,
    BitVec.le_def, toNat_bcd2dec, BitVec.reduceToNat]
  omega

section
variable {W : Nat} {r : Regs}

/-- The registers after a reset keep the invariant at every width (R200). -/
theorem Regs.inv_reset : Regs.reset.Inv W :=
  ⟨by decide, by decide, by decide, Nat.two_pow_pos W, Nat.two_pow_pos W⟩

/-- TICK writes `SECOND`, which has no bound (R162). -/
theorem Regs.Inv.tick (h : r.Inv W) (fn : Byte → Byte) : (tickRegs fn r).Inv W := h

/-- `LAST_RISING` takes a `W`-bit timestamp. -/
theorem Regs.Inv.withLastRising (h : r.Inv W) {ts : Nat} (hts : ts < 2 ^ W) : { r with lastRising := ts }.Inv W := by
  obtain ⟨hpos, htop, htime, -, hfin⟩ := h
  exact ⟨hpos, htop, htime, hts, hfin⟩

/-- FINALIZE clears the frame and the position, so it needs no bound on them (R147). -/
theorem Regs.finalize_inv (c : Cfg) {now : Nat} (htime : r.time.InRange) (hrise : r.lastRising < 2 ^ W)
    (hfin : r.lastFinalize < 2 ^ W) (hnow : now < 2 ^ W) : (r.finalize c now).Inv W := by
  refine ⟨by simp, by simp, ?time, by rwa [Regs.finalize_lastRising], ?last⟩
  case time =>
    rw [Regs.finalize_time]
    split
    · exact decodeFrame_inRange r.frame
    · exact htime
  case last =>
    rw [Regs.finalize_lastFinalize]
    split
    · exact hnow
    · exact hfin

theorem Regs.Inv.finalize (h : r.Inv W) (c : Cfg) {now : Nat} (hnow : now < 2 ^ W) : (r.finalize c now).Inv W := by
  obtain ⟨-, -, htime, hrise, hfin⟩ := h
  exact Regs.finalize_inv c htime hrise hfin hnow

/-- GLITCH only lowers the position (R125). -/
theorem Regs.Inv.glitch (h : r.Inv W) : r.glitch.Inv W := by
  obtain ⟨hpos, htop, htime, hrise, hfin⟩ := h
  refine ⟨?_, by simpa using htop, by simpa using htime, by simpa using hrise, by simpa using hfin⟩
  rw [BitVec.le_def] at hpos ⊢
  exact (Regs.toNat_glitch_pos r).trans_le ((Nat.sub_le _ _).trans hpos)

/-- APPEND advances below slot 59, and finalizes at slot 59 (R22, R124). -/
theorem Regs.Inv.append (h : r.Inv W) (c : Cfg) (v : Bool) {ts : Nat} (hts : ts < 2 ^ W) :
    (r.append c v ts).Inv W := by
  obtain ⟨hpos, htop, htime, hrise, hfin⟩ := h
  obtain hlt | hge := Nat.lt_or_ge r.pos.toNat 59
  · rw [Regs.append_of_lt r c v ts hlt]
    refine ⟨?_, (topBits_writeSlot _ _ _ _ (by omega)).trans htop, htime, hrise, hfin⟩
    rw [BitVec.le_def, toNat_pos_succ _ hlt]
    exact hlt
  · rw [Regs.append_of_ge r c v ts hge]
    exact Regs.finalize_inv c htime hrise hfin hts

/-- Every semantic event keeps the invariant (R100). -/
theorem Regs.Inv.perform (h : r.Inv W) (c : Cfg) (e : Sev) {ts : Nat} (hts : ts < 2 ^ W) :
    (r.perform c e ts).Inv W := by
  cases e with
  | second => exact h.withLastRising hts
  | append v => exact h.append c v hts
  | glitch => exact h.glitch
  | finalize => exact (h.finalize c hts).withLastRising hts

end

/-- Every effect of a step keeps the invariant: the timestamps it stores are presented ones. -/
theorem State.StepEffect.inv {s : State} {r : Regs} (h : s.StepEffect r) (hs : s.Inv) : r.Inv s.params.W := by
  cases h with
  | unchanged => exact hs
  | reset => exact Regs.inv_reset
  | tick => exact hs.tick _
  | event hi he => exact hs.perform _ _ (he.timestamp_eq ▸ hi.fits)
  | finalize hi => exact hs.finalize _ hi.fits

/-- Settles O42: `State.StepEffect.inv`, at the parameters that no step writes. -/
theorem everyStepKeepsInv : Obligations.EveryStepKeepsInv := by
  unfold Obligations.EveryStepKeepsInv
  intro s t hs h
  rw [State.Inv, step_params h]
  exact (step_effect h).inv hs

end Sys2Proof.Machine

/-! ## Which registers move, and when

R32 items 3 and 4, and R25: the parity flags, the calendar and `LAST_RISING`. -/

namespace Sys2Proof.Machine

section
variable (r : Regs) (c : Cfg) (g : Seg)

@[simp] theorem Regs.finalize_acc (now : Nat) : (r.finalize c now).acc g = r.acc g := by cases g <;> simp
@[simp] theorem Regs.finalize_cap (now : Nat) : (r.finalize c now).cap g = r.cap g := by cases g <;> simp
@[simp] theorem Regs.glitch_acc : r.glitch.acc g = r.acc g := by cases g <;> simp
@[simp] theorem Regs.glitch_cap : r.glitch.cap g = r.cap g := by cases g <;> simp

variable (v : Bool) (ts : Nat)

/-- Each accumulator after an APPEND, also one that finalizes (R122). -/
theorem Regs.append_acc : (r.append c v ts).acc g = accNext g r.pos.toNat v (r.acc g) := by
  rw [← Regs.appendAt_acc r c]
  obtain h | h := Nat.lt_or_ge r.pos.toNat 59
  · rw [Regs.append_of_lt r c v ts h]; rfl
  · rw [Regs.append_of_ge r c v ts h, Regs.finalize_acc]

/-- Each capture after an APPEND, also one that finalizes (R123). -/
theorem Regs.append_cap : (r.append c v ts).cap g = capNext g r.pos.toNat (r.acc g) (r.cap g) := by
  rw [← Regs.appendAt_cap r c _ v]
  obtain h | h := Nat.lt_or_ge r.pos.toNat 59
  · rw [Regs.append_of_lt r c v ts h]; rfl
  · rw [Regs.append_of_ge r c v ts h, Regs.finalize_cap]

end

/-- A step that is no reset is an APPEND, or keeps every parity flag (R23, R24). -/
theorem State.StepEffect.append_or_flags_kept {s : State} {r : Regs} (h : s.StepEffect r) (hr : ¬ s.resetNext) :
    (∃ v ts, r = s.regs.append s.cfg v ts) ∨ ∀ g, r.acc g = s.regs.acc g ∧ r.cap g = s.regs.cap g := by
  cases h with
  | unchanged => exact .inr fun g => ⟨rfl, rfl⟩
  | reset h => exact absurd h hr
  | tick => exact .inr fun g => by cases g <;> exact ⟨rfl, rfl⟩
  | finalize => exact .inr fun g => ⟨Regs.finalize_acc .., Regs.finalize_cap ..⟩
  | @event _ e ts hi he =>
    cases e with
    | append v => exact .inl ⟨v, ts, rfl⟩
    | second => exact .inr fun g => by cases g <;> exact ⟨rfl, rfl⟩
    | glitch => exact .inr fun g => ⟨Regs.glitch_acc .., Regs.glitch_cap ..⟩
    | finalize => exact .inr fun g => by cases g <;> simp [Regs.perform]

/-- Settles O44: only an APPEND moves a parity flag, and `accNext` and `capNext` say at which positions. -/
theorem parityFlagsChangeOnlyInTheirSegment : Obligations.ParityFlagsChangeOnlyInTheirSegment := by
  unfold Obligations.ParityFlagsChangeOnlyInTheirSegment
  intro s t g h hr
  obtain ⟨v, ts, ht⟩ | hkept := (step_effect h).append_or_flags_kept hr
  · rw [ht, Regs.append_acc, Regs.append_cap]
    constructor
    · intro hne
      have hin : ¬ (s.regs.pos.toNat < segStart g ∨ segEnd g ≤ s.regs.pos.toNat) :=
        fun hout => hne (accNext_outside g _ v _ hout)
      exact ⟨by omega, by omega, v, ts, rfl⟩
    · intro hne
      have hend : s.regs.pos.toNat = segEnd g := by_contra fun hn => hne (capNext_elsewhere g _ _ _ hn)
      exact ⟨hend, by rw [hend, capNext_at_end], v, ts, rfl⟩
  · obtain ⟨hacc, hcap⟩ := hkept g
    exact ⟨(absurd hacc ·), (absurd hcap ·)⟩

/-- A field reads its own slots alone (R82). -/
theorem field_congr {f f' : FrameWord} {o w : Nat} (h : ∀ q, o ≤ q → q < o + w → slot f q = slot f' q) :
    field f o w = field f' o w := by
  refine congrArg (BitVec.setWidth 8) (BitVec.eq_of_getLsbD_eq fun i hi => ?_)
  simpa [hi, slot] using h (o + i) (by omega) (by omega)

/-- The candidate time reads slots 21 to 57 alone (R80, R141). -/
theorem decodeFrame_congr {f f' : FrameWord} (h : ∀ q, 21 ≤ q → q < 58 → slot f q = slot f' q) :
    decodeFrame f = decodeFrame f' := by
  have hfield (o w : Nat) (ho : 21 ≤ o) (hw : o + w ≤ 58) : field f o w = field f' o w :=
    field_congr fun q h1 h2 => h q (by omega) (by omega)
  simp (disch := omega) only [decodeFrame, minuteField, hourField, dayField, weekdayField, monthField, yearField, hfield]

section
variable (r : Regs) (c : Cfg) (v : Bool) {p : Nat} (hp : 59 ≤ p)
include hp

/-- A slot write past slot 58 keeps slots 0 to 58 (R121). -/
theorem slot_appendAt_of_ge {q : Nat} (hq : q < 59) : slot (r.appendAt c p v).frame q = slot r.frame q := by
  rw [Regs.appendAt_frame, slot_writeSlot _ _ _ _ _ (by omega), if_neg (by omega)]

/-- Slot 59 is in no field (R80). -/
theorem decodeFrame_appendAt_of_ge : decodeFrame (r.appendAt c p v).frame = decodeFrame r.frame :=
  decodeFrame_congr fun _ _ h => slot_appendAt_of_ge r c v hp (by omega)

/-- Slot 59 is no parity slot, and its APPEND captures nothing (R84, R123). -/
theorem parityOk_appendAt_of_ge : (r.appendAt c p v).parityOk = r.parityOk := by
  have hcap (g : Seg) : (r.appendAt c p v).cap g = r.cap g := by
    rw [Regs.appendAt_cap, capNext_elsewhere]
    cases g <;> simp only [segEnd] <;> omega
  simp only [Regs.parityOk, slot_appendAt_of_ge r c v hp, Nat.reduceLT, ← Regs.cap_minute, ← Regs.cap_hour,
    ← Regs.cap_date, hcap]

end

/-- The registers `r'` hold the time of the frame in `r`, which passed the validation, and the frame is cleared: what
one successful FINALIZE leaves (R144, R147). -/
def Regs.Published (r r' : Regs) : Prop :=
  r'.time = decodeFrame r.frame ∧ r.parityOk = true ∧ r'.frame = 0 ∧ r'.pos = 0

/-- A FINALIZE keeps the decoded time or publishes (R144, R145). -/
theorem Regs.finalize_time_cases (r : Regs) (c : Cfg) (now : Nat) :
    (r.finalize c now).time = r.time ∨ r.Published (r.finalize c now) := by
  by_cases hok : r.parityOk = true
  · exact .inr ⟨by rw [Regs.finalize_time, if_pos hok], hok, rfl, rfl⟩
  · exact .inl (by rw [Regs.finalize_time, if_neg hok])

/-- So does an APPEND: only one at slot 59 finalizes, and slot 59 has no part in what is published (R124). -/
theorem Regs.append_time_cases (r : Regs) (c : Cfg) (v : Bool) (ts : Nat) :
    (r.append c v ts).time = r.time ∨ r.Published (r.append c v ts) := by
  obtain h | h := Nat.lt_or_ge r.pos.toNat 59
  · rw [Regs.append_of_lt r c v ts h]
    exact .inl rfl
  · rw [Regs.append_of_ge r c v ts h]
    refine (Regs.finalize_time_cases _ c ts).imp_right fun ⟨htime, hok, hframe, hpos⟩ => ?_
    exact ⟨htime.trans (decodeFrame_appendAt_of_ge r c v h), (parityOk_appendAt_of_ge r c v h) ▸ hok, hframe, hpos⟩

/-- And so does every semantic event (R100). -/
theorem Regs.perform_time_cases (r : Regs) (c : Cfg) (e : Sev) (ts : Nat) :
    (r.perform c e ts).time = r.time ∨ r.Published (r.perform c e ts) := by
  cases e with
  | second => exact .inl rfl
  | append v => exact r.append_time_cases c v ts
  | glitch => exact .inl r.glitch_time
  | finalize => exact r.finalize_time_cases c ts

/-- A step that is no reset publishes, or changes at most `SECOND` of the decoded time (R162). -/
theorem State.StepEffect.time_cases {s : State} {r : Regs} (h : s.StepEffect r) (hr : ¬ s.resetNext) :
    r.time = { s.regs.time with second := r.time.second } ∨ s.regs.Published r := by
  have of_time_eq (h : r.time = s.regs.time) : r.time = { s.regs.time with second := r.time.second } := by rw [h]
  cases h with
  | unchanged => exact .inl rfl
  | reset h => exact absurd h hr
  | tick => exact .inl rfl
  | event => exact (Regs.perform_time_cases ..).imp_left of_time_eq
  | finalize => exact (Regs.finalize_time_cases ..).imp_left of_time_eq

/-- Settles O45: `State.StepEffect.time_cases`. -/
theorem calendarMovesAsOneUnit : Obligations.CalendarMovesAsOneUnit := by
  unfold Obligations.CalendarMovesAsOneUnit
  intro s t h hr
  refine ((step_effect h).time_cases hr).imp_left fun hkept => ?_
  rw [hkept]
  exact ⟨rfl, rfl, rfl, rfl, rfl, rfl⟩

/-- Only the events SECOND and FINALIZE write `LAST_RISING` (R102 to R105). -/
theorem Regs.perform_lastRising (r : Regs) (c : Cfg) (e : Sev) (ts : Nat) :
    (r.perform c e ts).lastRising = if e = .second ∨ e = .finalize then ts else r.lastRising := by
  cases e with
  | second | finalize => rfl
  | append v => simp [Regs.perform]
  | glitch => simp [Regs.perform]

/-- A step that is no reset and changes `LAST_RISING` performs the event SECOND or FINALIZE, and stores its time. -/
theorem State.StepEffect.event_of_lastRising_ne {s : State} {r : Regs} (h : s.StepEffect r) (hr : ¬ s.resetNext)
    (hne : r.lastRising ≠ s.regs.lastRising) :
    ∃ i e, s.Presents i ∧ s.Triggers i e r.lastRising ∧ (e = .second ∨ e = .finalize) := by
  cases h with
  | unchanged => exact absurd rfl hne
  | reset h => exact absurd h hr
  | tick => exact absurd rfl hne
  | finalize => exact absurd (Regs.finalize_lastRising ..) hne
  | @event i e ts hi he =>
    rw [Regs.perform_lastRising] at hne ⊢
    have hacc : e = .second ∨ e = .finalize := by_contra fun hn => hne (if_neg hn)
    rw [if_pos hacc]
    exact ⟨i, e, hi, he, hacc⟩

/-- Settles O47: the event SECOND or FINALIZE that the change needs is an EDGE so classified, or SECOND by itself. -/
theorem lastRisingMovesOnlyOnAcceptedEdges : Obligations.LastRisingMovesOnlyOnAcceptedEdges := by
  unfold Obligations.LastRisingMovesOnlyOnAcceptedEdges
  intro s t h hr hne
  obtain ⟨i, e, ⟨x, rest, hs, hi⟩, he, hacc⟩ := (step_effect h).event_of_lastRising_ne hr hne
  refine ⟨x, rest, hs, ?_⟩
  generalize t.regs.lastRising = ts at he ⊢
  cases he with
  | edge l => exact .inr ⟨l, hi, hacc⟩
  | second => exact .inl hi
  | append | glitch => simp at hacc

end Sys2Proof.Machine

/-! ## Reset values, the configuration word, and what a query reads -/

namespace Sys2Proof.Machine

/-- Settles O13: each register, the configuration and each parameter of the reset state, by computation. -/
theorem resetStateHasTheListedValues : Obligations.ResetStateHasTheListedValues := by
  unfold Obligations.ResetStateHasTheListedValues
  decide

section
variable (c : Cfg)

/-- `CFG[0]` is `INVERT_SIGNAL` (R28). -/
theorem cfgWord_bit0 : (cfgWord c).getLsbD 0 = c.invertSignal := by
  simp only [cfgWord, BitVec.getLsbD_append]
  simp

/-- `CFG[1]` is `REFRESH_POLICY` (R28). -/
theorem cfgWord_bit1 : (cfgWord c).getLsbD 1 = decide (c.refreshPolicy = .successOnly) := by
  simp only [cfgWord, BitVec.getLsbD_append]
  simp

/-- `CFG[2]` is `FRAME_WRITE` (R28). -/
theorem cfgWord_bit2 : (cfgWord c).getLsbD 2 = decide (c.frameWrite = .or) := by
  simp only [cfgWord, BitVec.getLsbD_append]
  simp

/-- A configuration is read back from its word. -/
theorem cfgOfWord_cfgWord : cfgOfWord (cfgWord c) = c := by
  obtain ⟨inv, policy, mode⟩ := c
  have hpolicy : (if policy = .successOnly then .successOnly else .anyFinalize) = policy := by cases policy <;> rfl
  have hmode : (if mode = .or then .or else .assign) = mode := by cases mode <;> rfl
  simp only [cfgOfWord, cfgWord_bit0, cfgWord_bit1, cfgWord_bit2, decide_eq_true_eq, hpolicy, hmode]

end

/-- Each of the eight words is the word of the configuration it stands for. -/
theorem cfgWord_cfgOfWord : ∀ w : BitVec 3, cfgWord (cfgOfWord w) = w := by decide

/-- Settles O14: the three bits, and the two round trips. -/
theorem configurationWordFields : Obligations.ConfigurationWordFields := by
  unfold Obligations.ConfigurationWordFields
  intro c w
  rw [cfgWord_bit0, cfgWord_bit1, cfgWord_bit2, decide_eq_true_iff, decide_eq_true_iff]
  exact ⟨.rfl, .rfl, .rfl, cfgOfWord_cfgWord c, cfgWord_cfgOfWord w⟩

/-- SYNCED reads the decoded time, `LAST_FINALIZE` and the parameters (R161). -/
theorem isSynced_congr (p : Params) {r r' : Regs} (now : Nat) (htime : r'.time = r.time)
    (hfin : r'.lastFinalize = r.lastFinalize) : isSynced p r' now = isSynced p r now := by
  rw [isSynced, isSynced, htime, hfin]

/-- Settles O37: GET_TIME packs the decoded time, and SYNCED is `isSynced_congr`. -/
theorem queriesReadOnlyOutputRegisters : Obligations.QueriesReadOnlyOutputRegisters := by
  unfold Obligations.QueriesReadOnlyOutputRegisters
  intro q s s' t t' hq htime hfin hparams h h'
  obtain ⟨now, rfl | rfl⟩ := hq
  · cases h
    cases h'
    exact congrArg (fun time => [Answer.time (packTime time)]) htime
  · cases h
    cases h'
    simp only [State.afterQuery_answers, hparams, isSynced_congr _ now htime hfin]

end Sys2Proof.Machine

/-! ## Bits appended with no glitch -/

namespace Sys2Proof.Machine

/-- The frame with the bits `bs` in slots 0, 1, ..., and 0 in every slot past them (R51). -/
def frameOfBits (bs : List Bool) : FrameWord := BitVec.ofFnLE fun i : Fin 64 => bs.getD i false

theorem slot_frameOfBits (bs : List Bool) {q : Nat} (hq : q < 64) : slot (frameOfBits bs) q = bs.getD q false := by
  rw [slot, frameOfBits, BitVec.getLsbD_ofFnLE, dif_pos hq]

section
variable (c : Cfg) (ts : Nat)

@[simp] theorem Regs.appendAll_nil (r : Regs) : r.appendAll c ts [] = r := rfl
@[simp] theorem Regs.appendAll_cons (b : Bool) (bs : List Bool) (r : Regs) :
    r.appendAll c ts (b :: bs) = (r.append c b ts).appendAll c ts bs := rfl

/-- Appending the bits of the next slots receives those slots (R120 to R124). -/
theorem Regs.HasReceived.appendAll {f : FrameWord} {n : Nat} {bs : List Bool} {r : Regs} (h : r.HasReceived f n)
    (hn : n + bs.length ≤ 59) (hbs : ∀ k, k < bs.length → bs.getD k false = slot f (n + k)) :
    (r.appendAll c ts bs).HasReceived f (n + bs.length) := by
  induction bs generalizing n r with
  | nil => exact h
  | cons b bs ih =>
    rw [List.length_cons] at hn hbs ⊢
    have hb : b = slot f n := hbs 0 (Nat.succ_pos _)
    have hrest (k : Nat) (hk : k < bs.length) : bs.getD k false = slot f (n + 1 + k) := by
      rw [Nat.add_right_comm]
      exact hbs (k + 1) (Nat.succ_lt_succ hk)
    rw [Regs.appendAll_cons, hb, Nat.add_comm bs.length, ← Nat.add_assoc]
    exact ih (h.append (by omega) c ts) (by omega) hrest

/-- Appends that end at or before a segment's end slot keep its capture (R123). -/
theorem Regs.appendAll_cap_of_le {g : Seg} {bs : List Bool} {r : Regs} (h : r.pos.toNat + bs.length ≤ segEnd g) :
    (r.appendAll c ts bs).cap g = r.cap g := by
  induction bs generalizing r with
  | nil => rfl
  | cons b bs ih =>
    rw [List.length_cons] at h
    have hp : r.pos.toNat < 59 := by cases g <;> simp only [segEnd] at h <;> omega
    have hpos : (r.append c b ts).pos.toNat = r.pos.toNat + 1 := by
      rw [Regs.append_of_lt r c b ts hp]
      exact toNat_pos_succ _ hp
    rw [Regs.appendAll_cons, ih (by omega), Regs.append_cap, capNext_elsewhere g _ _ _ (by omega)]

end

/-- The frame register is the frame received when that frame is 0 from the position on. -/
theorem Regs.HasReceived.frame_eq {f : FrameWord} {n : Nat} {r : Regs} (h : r.HasReceived f n)
    (hf : ∀ q, n ≤ q → q < 64 → slot f q = false) : r.frame = f := by
  refine frame_ext _ _ fun q hq => ?_
  rw [h.frame q hq]
  obtain hlt | hge := Nat.lt_or_ge q n
  · simp [hlt]
  · rw [hf q hge hq, Bool.and_false]

/-- Appending bits to a cleared frame receives the frame of those bits (R51, R120 to R124). -/
theorem Regs.HasReceived.appendAll_of_cleared {r : Regs} (c : Cfg) (ts : Nat) {bs : List Bool} (hp : r.pos = 0)
    (hf : r.frame = 0) (hlen : bs.length ≤ 59) :
    (r.appendAll c ts bs).HasReceived (frameOfBits bs) bs.length := by
  have h := (Regs.HasReceived.of_cleared (frameOfBits bs) hp hf).appendAll c ts (bs := bs) (by omega) fun k hk => by
    rw [Nat.zero_add, slot_frameOfBits bs (by omega)]
  rwa [Nat.zero_add] at h

/-- So the frame register holds those bits, and 0 past them (R51). -/
theorem Regs.frame_appendAll_of_cleared {r : Regs} (c : Cfg) (ts : Nat) {bs : List Bool} (hp : r.pos = 0)
    (hf : r.frame = 0) (hlen : bs.length ≤ 59) : (r.appendAll c ts bs).frame = frameOfBits bs := by
  refine (Regs.HasReceived.appendAll_of_cleared c ts hp hf hlen).frame_eq fun q hge hq => ?_
  rw [slot_frameOfBits bs hq, List.getD_eq_default _ _ hge]

/-- Settles O50: the registers have received the frame of the bits, and appends before an end slot capture nothing
there (`Regs.appendAll_cap_of_le`). -/
theorem glitchFreeFrameIsReceived : Obligations.GlitchFreeFrameIsReceived := by
  unfold Obligations.GlitchFreeFrameIsReceived
  intro c ts bs r hp hf hlen
  have hrec := Regs.HasReceived.appendAll_of_cleared c ts hp hf hlen
  have hframe := Regs.frame_appendAll_of_cleared c ts hp hf hlen
  refine ⟨hrec.pos, fun q hq => ?slots, fun g hg => ?reached, fun g hg => ?unreached⟩
  case slots => rw [hframe, slot_frameOfBits bs hq]
  case reached => rw [hframe, hrec.cap g hg]
  case unreached => exact Regs.appendAll_cap_of_le c ts (by simpa [hp] using hg)

end Sys2Proof.Machine

/-! ## What queries disturb -/

namespace Sys2Proof.Machine

/-- A query changes no register, configuration or parameter (R163). -/
theorem exec_query_frame {q : Instr} {s t : State} (hq : Instr.isQuery q) (h : exec q s = .next t) :
    t.regs = s.regs ∧ t.cfg = s.cfg ∧ t.params = s.params := by
  obtain ⟨now, rfl | rfl⟩ := hq <;> cases h <;> exact ⟨rfl, rfl, rfl⟩

/-- What an instruction does reads the registers, the configuration and the parameters alone: not the outputs of the
step before, the inputs still to come, or the free values. -/
theorem exec_congr {i : Instr} {s s' t t' : State} (hregs : s'.regs = s.regs) (hcfg : s'.cfg = s.cfg)
    (hparams : s'.params = s.params) (h : exec i s = .next t) (h' : exec i s' = .next t') :
    t'.regs = t.regs ∧ t'.answers = t.answers ∧ t'.cfg = t.cfg ∧ t'.params = t.params := by
  obtain ⟨l, ts, rfl, rfl⟩ | ⟨ts, rfl, rfl⟩ | ⟨now, rfl, rfl⟩ | ⟨now, rfl, rfl⟩ | ⟨ts, rfl, rfl⟩ | ⟨v, ts, rfl, rfl⟩ |
    ⟨ts, rfl, rfl⟩ | ⟨now, rfl, rfl⟩ := exec_next_cases h <;>
  cases h' <;> simp [hregs, hcfg, hparams, Regs.perform]

/-- Each query of a step from `s` to `t` gets one answer, the one it gets when asked at its boundary (R57, R163). -/
theorem State.forall₂_answers {s t : State} (hparams : t.params = s.params) (qs : List Query) :
    List.Forall₂ (fun (q : Query) (a : Answer) => ∃ u,
        exec (decodeQuery s.params.W q.word) (q.boundary.pick s t) = .next u ∧ u.answers = [a])
      qs (qs.flatMap fun q => (q.boundary.pick s t).ask q.word) := by
  induction qs with
  | nil => exact .nil
  | cons q qs ih =>
    have hpick : (q.boundary.pick s t).params = s.params := by
      cases q.boundary with
      | before => rfl
      | after => exact hparams
    obtain ⟨a, hask, hexec⟩ := State.ask_eq (q.boundary.pick s t) q.word
    rw [hpick] at hexec
    rw [List.flatMap_cons, hask]
    exact .cons ⟨_, hexec, rfl⟩ ih

/-- Queries put into a step add their answers to what the step leaves, and change nothing else (R57, R163). -/
theorem step_with_queries {s t : State} {x : Stimulus} {rest : List Stimulus}
    (hx : x.queries = []) (h : step { s with inputs := x :: rest } = .next t) (qs : List Query) :
    step { s with inputs := { x with queries := qs } :: rest } = .next ({ s with inputs := rest }.answering t qs) := by
  obtain ⟨hnil, -⟩ | ⟨y, ys, u, hs, hc, rfl, hu⟩ := step_next_cases h
  · cases hnil
  · cases hs
    rw [hx, State.answering_nil]
    exact step_of_perform (x := { x with queries := qs }) rfl hc hu

/-- Settles O38: before an instruction by `exec_query_frame` and `exec_congr`; beside one by `step_with_queries` and
`State.forall₂_answers`. -/
theorem queriesDisturbNothing : Obligations.QueriesDisturbNothing := by
  unfold Obligations.QueriesDisturbNothing
  refine ⟨fun q i s s1 s2 t hq h1 h2 ht => ?_, fun s t c x qs rest hs h => ?_⟩
  · obtain ⟨hregs, hcfg, hparams⟩ := exec_query_frame hq h1
    exact exec_congr hregs hcfg hparams ht h2
  · have hparams := step_params h
    have hstep := step_with_queries rfl h qs
    rw [← hs] at hstep
    exact ⟨_, hstep, State.forall₂_answers (s := { s with inputs := rest }) hparams qs⟩

end Sys2Proof.Machine

/-! ## The observer output

R79: the pulse belongs to the step of an EDGE, and nothing reads it. -/

namespace Sys2Proof.Machine

/-- A step presents at most one instruction beside its queries. -/
theorem State.Presents.unique {s : State} {i j : Instr} (hi : s.Presents i) (hj : s.Presents j) : i = j := by
  obtain ⟨x, rest, hs, hx⟩ := hi
  obtain ⟨y, rest', hs', hy⟩ := hj
  obtain ⟨rfl, -⟩ := List.cons.inj (hs.symm.trans hs')
  exact Option.some.inj (hx.symm.trans hy)

/-- What the observer output shows after an instruction: both levels of an EDGE, no pulse of any other (R79). -/
theorem exec_obs_cases {i : Instr} {s t : State} (h : exec i s = .next t) :
    (∃ l ts, i = .edge l ts ∧ t.obs = { valid := true, raw := l, active := effectiveLevel s.cfg l }) ∨
    (t.obs.valid = false ∧ ∀ l ts, i ≠ .edge l ts) := by
  obtain ⟨l, ts, rfl, rfl⟩ | ⟨ts, rfl, rfl⟩ | ⟨now, rfl, rfl⟩ | ⟨now, rfl, rfl⟩ | ⟨ts, rfl, rfl⟩ | ⟨v, ts, rfl, rfl⟩ |
    ⟨ts, rfl, rfl⟩ | ⟨now, rfl, rfl⟩ := exec_next_cases h
  · exact .inl ⟨l, ts, rfl, rfl⟩
  all_goals exact .inr ⟨rfl, nofun⟩

/-- What the observer output shows after a step (R79). -/
theorem step_obs_cases {s t : State} (h : step s = .next t) :
    (∃ l ts, s.Presents (.edge l ts) ∧ t.obs = { valid := true, raw := l, active := effectiveLevel s.cfg l }) ∨
    (t.obs.valid = false ∧ ∀ l ts, ¬ s.Presents (.edge l ts)) := by
  obtain ⟨hs, rfl⟩ | ⟨x, rest, u, hs, -, rfl, hu⟩ := step_next_cases h
  · exact .inr ⟨rfl, fun l ts ⟨x, rest, hx, _⟩ => by simp [hs] at hx⟩
  have no_edge {a : Option Instr} (ha : inputInstr s.params.W x.input = a) (hne : ∀ l ts, a ≠ some (.edge l ts))
      (l : Bool) (ts : Nat) : ¬ s.Presents (.edge l ts) := by
    rintro ⟨y, rest', hy, hi⟩
    obtain ⟨rfl, -⟩ := List.cons.inj (hs.symm.trans hy)
    exact hne l ts (ha.symm.trans hi)
  obtain ⟨hx, rfl⟩ | ⟨-, hnone, rfl⟩ | ⟨-, i, hi, hexec⟩ := perform_next_cases hu
  · exact .inr ⟨rfl, no_edge (congrArg (inputInstr _) hx) nofun⟩
  · exact .inr ⟨rfl, no_edge hnone nofun⟩
  obtain ⟨l, ts, rfl, hobs⟩ | ⟨hobs, hne⟩ := exec_obs_cases hexec
  · exact .inl ⟨l, ts, ⟨x, rest, hs, hi⟩, hobs⟩
  · exact .inr ⟨hobs, no_edge hi fun l ts he => hne l ts (Option.some.inj he)⟩

section
variable (s : State) (o : Observer)

/-- No instruction reads the observer output. -/
theorem exec_withObs (i : Instr) : exec i { s with obs := o } = exec i s := by cases i <;> rfl

/-- No query reads it. -/
theorem State.ask_withObs (qw : Nat) : { s with obs := o }.ask qw = s.ask qw := by simp only [State.ask_value]

/-- So nothing that is performed reads it. -/
theorem State.perform_withObs (x : Stimulus) : { s with obs := o }.perform x = s.perform x := by
  simp only [State.perform, exec_withObs]
  rfl

theorem State.answering_withObs (t : State) (qs : List Query) :
    { s with obs := o }.answering t qs = s.answering t qs := by
  have hpick (q : Query) : (q.boundary.pick { s with obs := o } t).ask q.word = (q.boundary.pick s t).ask q.word := by
    cases q.boundary with
    | before => exact s.ask_withObs o q.word
    | after => rfl
  simp only [State.answering, hpick]

theorem State.present_withObs (x : Stimulus) : { s with obs := o }.present x = s.present x := by
  simp only [State.present, State.perform_withObs, State.answering_withObs]

/-- A step does not read the observer output of the step before. -/
theorem step_withObs : step { s with obs := o } = step s := by
  obtain ⟨regs, cfg, params, obs, answers, _ | ⟨x, rest⟩, free⟩ := s
  · rfl
  · exact State.present_withObs ⟨regs, cfg, params, obs, answers, rest, free⟩ o x

end

/-- Settles O22: `step_obs_cases`, as a step presents one instruction; and `step_withObs`. -/
theorem observerPulsesExactlyOnEdge : Obligations.ObserverPulsesExactlyOnEdge := by
  unfold Obligations.ObserverPulsesExactlyOnEdge
  refine ⟨fun s t h => ⟨⟨fun hv => ?_, ?_⟩, ?_⟩, step_withObs⟩
  · obtain ⟨l, ts, ⟨x, rest, hs, hi⟩, -⟩ | ⟨hv', -⟩ := step_obs_cases h
    · exact ⟨x, rest, l, ts, hs, hi⟩
    · simp [hv'] at hv
  · rintro ⟨x, rest, l, ts, hs, hi⟩
    obtain ⟨l', ts', -, hobs⟩ | ⟨-, hne⟩ := step_obs_cases h
    · rw [hobs]
    · exact absurd ⟨x, rest, hs, hi⟩ (hne l ts)
  · intro x rest l ts hs hi
    have hedge : s.Presents (.edge l ts) := ⟨x, rest, hs, hi⟩
    obtain ⟨l', ts', hedge', hobs⟩ | ⟨-, hne⟩ := step_obs_cases h
    · cases hedge.unique hedge'
      rw [hobs]
      exact ⟨rfl, rfl⟩
    · exact absurd hedge (hne l ts)

end Sys2Proof.Machine

/-! ## The ignored slots -/

namespace Sys2Proof.Machine

/-- The validation reads the captures and the three parity slots alone (R143). -/
theorem parityOk_withFrame {r : Regs} {f : FrameWord} (hmin : slot f 28 = slot r.frame 28)
    (hhour : slot f 35 = slot r.frame 35) (hdate : slot f 58 = slot r.frame 58) :
    { r with frame := f }.parityOk = r.parityOk := by
  simp only [Regs.parityOk, hmin, hhour, hdate]

/-- Settles O34: the validation and the candidate time read slots 21 to 58 alone, and FINALIZE clears the rest. -/
theorem ignoredSlotsNeverMatter : Obligations.IgnoredSlotsNeverMatter := by
  unfold Obligations.IgnoredSlotsNeverMatter
  intro r c now f h
  have hok : { r with frame := f }.parityOk = r.parityOk :=
    parityOk_withFrame (h 28 (by decide) (by decide)) (h 35 (by decide) (by decide)) (h 58 (by decide) (by decide))
  have htime : decodeFrame f = decodeFrame r.frame := decodeFrame_congr fun q h1 h2 => h q h1 (by omega)
  rw [Regs.finalize_eq, Regs.finalize_eq, hok, htime]

end Sys2Proof.Machine

/-! ## The codes of the three ports -/

namespace Sys2Proof.Machine

open Sys2Proof.Laws Sys2Proof.Laws.TableRow

/-- Settles O1: the word's width (`word_lt`), and its two fields read back. -/
theorem commandWordIsTsTimesEightPlusOp : Obligations.CommandWordIsTsTimesEightPlusOp := by
  unfold Obligations.CommandWordIsTsTimesEightPlusOp
  intro W ts op h
  have hts : cmdTs W (commandWord ts op) = ts := by rw [cmdTs_commandWord, Nat.mod_eq_of_lt h]
  exact ⟨rfl, word_lt W ts op h, cmdOp_commandWord ts op, hts⟩

section
variable {W ts : Nat} (h : ts < 2 ^ W)
include h

/-- `cmd_op = 0b00L` is EDGE with level `L`, and a timestamp of `W` bits is read back whole (R70, R71). -/
theorem decodeCommand_edge_of_lt (l : Bool) :
    decodeCommand W (commandWord ts (0b00#2 ++ BitVec.ofBool l)) = .edge l ts := by
  rw [decodeCommand_edge, Nat.mod_eq_of_lt h]

/-- `cmd_op = 0b010` is TICK (R71). -/
theorem decodeCommand_tick : decodeCommand W (commandWord ts 0b010#3) = .tick ts := by
  simp [decodeCommand, Nat.mod_eq_of_lt h]

/-- `cmd_op = 0b011` is reserved (R73). -/
theorem decodeCommand_reserved011 : decodeCommand W (commandWord ts 0b011#3) = .reserved011 ts := by
  simp [decodeCommand, Nat.mod_eq_of_lt h]

/-- `cmd_op = 0b1xx` is reserved, and a timestamp of `W` bits is read back whole (R70, R73). -/
theorem decodeCommand_reserved1xx_of_lt (opLow : BitVec 2) :
    decodeCommand W (commandWord ts (1#1 ++ opLow)) = .reserved1xx opLow ts := by
  rw [decodeCommand_reserved1xx, Nat.mod_eq_of_lt h]

/-- `q_op = 0` is GET_TIME (R75). -/
theorem decodeQuery_getTime : decodeQuery W (queryWord ts 0#1) = .getTime ts := by
  simp [decodeQuery, Nat.mod_eq_of_lt h]

/-- `q_op = 1` is SYNCED (R75). -/
theorem decodeQuery_synced : decodeQuery W (queryWord ts 1#1) = .synced ts := by
  simp [decodeQuery, Nat.mod_eq_of_lt h]

end

/-- The effective level is 1 when the level differs from the inversion (R100). -/
theorem effectiveLevel_eq_true_iff (c : Cfg) (l : Bool) : effectiveLevel c l = true ↔ l ≠ c.invertSignal :=
  bne_iff_ne

/-- Settles O2: each code by the lemma of its row. -/
theorem commandOpcodeMap : Obligations.CommandOpcodeMap := by
  unfold Obligations.CommandOpcodeMap
  intro W ts c l h
  have hedge := decodeCommand_edge_of_lt h
  have h1xx := decodeCommand_reserved1xx_of_lt h
  exact ⟨hedge false, hedge true, decodeCommand_tick h, decodeCommand_reserved011 h, h1xx 0b00, h1xx 0b01, h1xx 0b10,
    h1xx 0b11, effectiveLevel_eq_true_iff c l⟩

/-- Settles O3: the two codes, and the query word's width (`query_lt`). -/
theorem queryOpcodeMap : Obligations.QueryOpcodeMap := by
  unfold Obligations.QueryOpcodeMap
  exact fun W now h => ⟨decodeQuery_getTime h, decodeQuery_synced h, query_lt W now 0 h, query_lt W now 1 h⟩

/-- `SEV = 0b01v` is the APPEND of `v` (R77). -/
theorem decodeSev_append (v : Bool) (ts : Nat) : decodeSev (Sev.code (.append v)) ts = .sevAppend v ts := by
  cases v <;> rfl

/-- Settles O4: each code is compared with the codes of the map; APPEND's holds its bit. -/
theorem semanticEventCodes : Obligations.SemanticEventCodes := by
  unfold Obligations.SemanticEventCodes
  exact fun ts v => ⟨rfl, decodeSev_append v ts, rfl, rfl, rfl, rfl, rfl⟩

/-- Settles O5: nine fixed words, by computation. -/
theorem knownWordsDecode : Obligations.KnownWordsDecode := by
  unfold Obligations.KnownWordsDecode
  decide

end Sys2Proof.Machine

/-! ## The listing form -/

namespace Sys2Proof.Machine

/-- The seconds of a minute are its bits in order (R87). -/
theorem secondsInputs_eq_flatMap (c : Cfg) (f : FrameWord) (t0 p n : Nat) :
    secondsInputs c f t0 p n = (List.range' p n).flatMap fun k => bitInputs c (slot f k) (t0 + 1000 * k) := by
  induction n generalizing p with
  | zero => rfl
  | succ n ih => rw [secondsInputs, ih, List.range'_succ, List.flatMap_cons]

/-- `MINUTE` presents its 59 bits in order (R87). -/
theorem stimuli_minute (c : Cfg) (f : FrameWord) (t0 : Nat) :
    Line.stimuli c (.minute f t0) =
      (List.range 59).flatMap fun p => Line.stimuli c (.bit (slot f p) (t0 + 1000 * p)) := by
  simp only [Line.stimuli]
  rw [minuteInputs, secondsInputs_eq_flatMap, List.map_flatMap, List.range_eq_range']

/-- Settles O8: the listing lines by the instructions their words decode to; BIT as written; MINUTE by
`stimuli_minute`. -/
theorem pseudoInstructionsExpand : Obligations.PseudoInstructionsExpand := by
  unfold Obligations.PseudoInstructionsExpand
  intro W c b l t f h
  have zero_lt : 0 < 2 ^ W := Nat.two_pow_pos W
  have presents {i j : Instr} (hij : i = j) : [[i]] = [[j]] := by rw [hij]
  have hedge (l : Bool) := presents (decodeCommand_edge_of_lt h l)
  exact ⟨hedge l, presents (decodeCommand_tick zero_lt), presents (decodeQuery_getTime zero_lt),
    presents (decodeQuery_synced h), rfl, hedge _, hedge _, rfl, stimuli_minute c f t⟩

end Sys2Proof.Machine

/-! ## Idle steps, GET_TIME and TICK -/

namespace Sys2Proof.Machine

/-- Settles O10: the step leaves the idle step's state, with the queries answered. -/
theorem idleStepChangesNoRegister : Obligations.IdleStepChangesNoRegister := by
  unfold Obligations.IdleStepChangesNoRegister
  intro s qs rest hs
  have hidle : { s with inputs := rest }.perform { cfg := s.cfg, input := .idle, queries := qs } =
      .next { s with inputs := rest }.performIdle := rfl
  refine ⟨_, step_of_perform hs (fun _ => rfl) hidle, rfl, rfl, rfl, rfl, ?_, rfl⟩
  rintro rfl
  rfl

/-- With nothing left to present a step is the idle step (R72; log 4). -/
theorem step_of_inputs_nil {s : State} (h : s.inputs = []) : step s = .next s.performIdle := by
  rw [step, h]

/-- Settles O11: `step_of_inputs_nil`, and what the idle step leaves. -/
theorem nothingPresentedIsIdle : Obligations.NothingPresentedIsIdle := by
  unfold Obligations.NothingPresentedIsIdle
  exact fun s h => ⟨_, step_of_inputs_nil h, rfl, rfl, rfl, rfl, rfl, h⟩

/-- Each decoded-time register is its byte of `q_time` (R76). -/
theorem extract_packTime (t : DecodedTime) :
    (packTime t).extractLsb' 0 8 = t.second ∧ (packTime t).extractLsb' 8 8 = t.minute ∧
    (packTime t).extractLsb' 16 8 = t.hour ∧ (packTime t).extractLsb' 24 8 = t.day ∧
    (packTime t).extractLsb' 32 8 = t.weekday ∧ (packTime t).extractLsb' 40 8 = t.month ∧
    (packTime t).extractLsb' 48 8 = t.year := by
  simp (disch := decide) only [packTime, BitVec.extractLsb'_append_eq_of_le, BitVec.extractLsb'_append_eq_of_add_le,
    Nat.reduceSub, BitVec.extractLsb'_eq_self, and_self]

/-- Settles O35: the answer is `packTime` of the decoded time (`extract_packTime`). -/
theorem getTimePacksDecodedTime : Obligations.GetTimePacksDecodedTime := by
  unfold Obligations.GetTimePacksDecodedTime
  intro now s
  obtain ⟨hsecond, hminute, hhour, hday, hweekday, hmonth, hyear⟩ := extract_packTime s.regs.time
  exact ⟨s.afterQuery (.time (packTime s.regs.time)), packTime s.regs.time, rfl, rfl, hsecond, hminute, hhour, hday,
    hweekday, hmonth, hyear, rfl, rfl, rfl, rfl⟩

/-- What TICK leaves, whatever its timestamp field holds (R74, R162). -/
theorem exec_tick (ts : Nat) (s : State) : exec (.tick ts) s = .next (s.afterEvent (tickRegs Config.tickFn s.regs)) :=
  rfl

/-- Settles O39: `exec_tick`, whose right side has no timestamp in it. -/
theorem tickWritesSecondOnly : Obligations.TickWritesSecondOnly := by
  unfold Obligations.TickWritesSecondOnly
  exact fun ts s => ⟨⟨_, exec_tick ts s, rfl, rfl, ⟨rfl, rfl, rfl⟩, rfl⟩, fun ts' => exec_tick ts' s⟩

end Sys2Proof.Machine

/-! ## Reserved codes -/

namespace Sys2Proof.Machine

/-- The step of a state whose next stimulus presents an instruction that is refused, with or without queries. -/
theorem step_refused_of_instr {s : State} {x : Input} {qs : List Query} {i : Instr} {r : Refusal}
    {rest : List Stimulus} (hs : s.inputs = { cfg := s.cfg, input := x, queries := qs } :: rest)
    (hi : inputInstr s.params.W x = some i) (hr : exec i { s with inputs := rest } = .refused r) :
    step s = .refused r := by
  have hx : x ≠ .reset := by rintro rfl; cases hi
  simp only [step, hs, State.present, State.perform, hi, hr, ne_eq, not_true, and_false, if_false, hx]

/-- A command word with a reserved opcode decodes to an instruction that is refused by that opcode (R73). -/
theorem exec_decodeCommand_of_reserved {cw : Nat} (h : cmdOp cw = 0b011 ∨ 0b100 ≤ cmdOp cw) (W : Nat) (s : State) :
    exec (decodeCommand W cw) s = .refused (.reservedCommand (cmdOp cw)) := by
  obtain h011 | h1xx := h
  · simp [decodeCommand, h011, exec, execReserved011]
  · have codes : ∀ op : BitVec 3, 0b100 ≤ op → op ≠ 0b000#3 ∧ op ≠ 0b001#3 ∧ op ≠ 0b010#3 ∧ op ≠ 0b011#3 ∧
      1#1 ++ op.extractLsb' 0 2 = op := by decide
    obtain ⟨h0, h1, h2, h3, hop⟩ := codes _ h1xx
    simp only [decodeCommand, h0, h1, h2, h3, if_false, exec, execReserved1xx, hop]

/-- Settles O40: `exec_decodeCommand_of_reserved` in a step, and the two rows by themselves. -/
theorem reservedCommandsAreRefused : Obligations.ReservedCommandsAreRefused := by
  unfold Obligations.ReservedCommandsAreRefused
  refine ⟨fun s cw qs rest hs hop => ?_, fun s ts low => ⟨rfl, rfl⟩⟩
  exact step_refused_of_instr hs rfl (exec_decodeCommand_of_reserved hop _ _)

/-- No semantic event has a reserved code (R77, R78). -/
theorem Sev.code_not_reserved (e : Sev) : e.code ≠ 0b001 ∧ e.code ≠ 0b101 ∧ e.code ≠ 0b111 := by
  cases e with
  | second | glitch | finalize => decide
  | append v => cases v <;> decide

/-- Settles O41: what the classifier answers is a semantic event (`Sev.code_not_reserved`); the three rows are
refused. -/
theorem reservedEventsAreRefused : Obligations.ReservedEventsAreRefused := by
  unfold Obligations.ReservedEventsAreRefused
  exact ⟨fun p c lr l ts => (edgeSev p c lr l ts).code_not_reserved, fun s ts => ⟨rfl, rfl, rfl⟩⟩

end Sys2Proof.Machine

/-! ## The edge classifier

R100's dispatch, one equation a case; what an EDGE does follows from the event it is classified as. -/

namespace Sys2Proof.Machine

/-- A rising edge within `T_SYNC` and before `T_GLITCH` is a glitch (R100, R103). -/
theorem classify_glitch {p : Params} {d : Nat} (hsync : ¬ d > p.tSync) (hglitch : d < p.tGlitch) :
    classify p true d = .glitch := by
  simp [classify, hsync, hglitch]

section
variable {p : Params} {c : Cfg} {lr : Nat} {l : Bool} {ts : Nat}

/-- R102's case of the dispatch. -/
theorem edgeSev_finalize (ha : (l ^^ c.invertSignal) = true) (hsync : gap p.W ts lr > p.tSync) :
    edgeSev p c lr l ts = .finalize := by
  rw [edgeSev, effectiveLevel, ha, classify_finalize hsync]

/-- R103's case of the dispatch. -/
theorem edgeSev_glitch (ha : (l ^^ c.invertSignal) = true) (hsync : ¬ gap p.W ts lr > p.tSync)
    (hglitch : gap p.W ts lr < p.tGlitch) : edgeSev p c lr l ts = .glitch := by
  rw [edgeSev, effectiveLevel, ha, classify_glitch hsync hglitch]

/-- R104's case of the dispatch. -/
theorem edgeSev_second (ha : (l ^^ c.invertSignal) = true) (hsync : ¬ gap p.W ts lr > p.tSync)
    (hglitch : ¬ gap p.W ts lr < p.tGlitch) : edgeSev p c lr l ts = .second := by
  rw [edgeSev, effectiveLevel, ha, classify_second (Nat.not_lt.mp hglitch) (Nat.not_lt.mp hsync)]

/-- R105's case of the dispatch: every falling edge is a bit. -/
theorem edgeSev_append (ha : (l ^^ c.invertSignal) = false) :
    edgeSev p c lr l ts = .append (if gap p.W ts lr < p.tSplit then false else true) := by
  rw [edgeSev, effectiveLevel, ha]
  rfl

end

/-- What an EDGE leaves, given the event it is classified as (R100). -/
theorem exec_edge_of_sev {s : State} {l : Bool} {ts : Nat} {e : Sev}
    (he : edgeSev s.params s.cfg s.regs.lastRising l ts = e) :
    exec (.edge l ts) s = .next (s.afterEdge l (effectiveLevel s.cfg l) (s.regs.perform s.cfg e ts)) := by
  rw [← he]
  rfl

/-- GLITCH as one record: `POS` less one, floored at 0, and every other register kept (R125). -/
theorem Regs.glitch_eq (r : Regs) : r.glitch = { r with pos := if r.pos = 0 then 0 else r.pos - 1 } := by
  by_cases h : r.pos = 0
  · rw [Regs.glitch_of_zero r h, if_pos h, ← h]
  · rw [Regs.glitch_of_pos r h, if_neg h]

/-- The edge's timestamp and `LAST_RISING` are read through their gap, so moving both moves no edge to another case
(D2, R205). -/
theorem edgeSev_shift (p : Params) (c : Cfg) (lr : Nat) (l : Bool) (ts k : Nat) :
    edgeSev p c ((lr + k) % 2 ^ p.W) l ((ts + k) % 2 ^ p.W) = edgeSev p c lr l ts := by
  rw [edgeSev, gap_mod_left, gap_mod_right, gap_add_right, edgeSev]

/-- Settles O16: the edge is a SECOND (`edgeSev_second`), whose rule writes `LAST_RISING`. -/
theorem secondEdgeWritesLastRisingOnly : Obligations.SecondEdgeWritesLastRisingOnly := by
  unfold Obligations.SecondEdgeWritesLastRisingOnly
  intro l ts s ha hglitch hsync
  have he : edgeSev s.params s.cfg s.regs.lastRising l ts = .second :=
    edgeSev_second ha (Nat.not_lt.mpr hsync) (Nat.not_lt.mpr hglitch)
  exact ⟨_, exec_edge_of_sev he, rfl, congrArg Sev.code he, ⟨rfl, rfl, rfl⟩, rfl⟩

/-- Settles O17: the edge is a GLITCH (`edgeSev_glitch`), which moves `POS` alone (`Regs.glitch_eq`). -/
theorem glitchEdgeRewindsPositionOnly : Obligations.GlitchEdgeRewindsPositionOnly := by
  unfold Obligations.GlitchEdgeRewindsPositionOnly
  intro l ts s ha hglitch hsync
  have he : edgeSev s.params s.cfg s.regs.lastRising l ts = .glitch := edgeSev_glitch ha hsync hglitch
  exact ⟨_, exec_edge_of_sev he, s.regs.glitch_eq, congrArg Sev.code he, ⟨rfl, rfl, rfl⟩, rfl⟩

/-- Settles O18: the edge is a FINALIZE (`edgeSev_finalize`), which keeps the parity flags. -/
theorem syncGapEdgeFinalizes : Obligations.SyncGapEdgeFinalizes := by
  unfold Obligations.SyncGapEdgeFinalizes
  intro l ts s ha hsync
  have he : edgeSev s.params s.cfg s.regs.lastRising l ts = .finalize := edgeSev_finalize ha hsync
  have flags_kept (g : Seg) := And.intro (s.regs.finalize_acc s.cfg g ts) (s.regs.finalize_cap s.cfg g ts)
  exact ⟨_, s.afterEvent (s.regs.finalize s.cfg ts), exec_edge_of_sev he, rfl, rfl, rfl, rfl, flags_kept,
    congrArg Sev.code he, ⟨rfl, rfl, rfl⟩, rfl⟩

/-- Settles O19: the edge is an APPEND of the classified bit (`edgeSev_append`), which keeps `LAST_RISING`. -/
theorem fallingEdgeAppendsClassifiedBit : Obligations.FallingEdgeAppendsClassifiedBit := by
  unfold Obligations.FallingEdgeAppendsClassifiedBit
  intro l ts s ha
  have he := edgeSev_append (p := s.params) (lr := s.regs.lastRising) (ts := ts) ha
  refine ⟨_, _, exec_edge_of_sev he, rfl, rfl, s.regs.append_lastRising s.cfg _ ts, ?_, ⟨rfl, rfl, rfl⟩, rfl⟩
  rw [he]
  split <;> rfl

/-- Settles O20: R100's cases exclude each other and cover every edge, and each is an equation above. -/
theorem edgeClassificationIsTotal : Obligations.EdgeClassificationIsTotal := by
  unfold Obligations.EdgeClassificationIsTotal
  intro p c lr l ts
  cases ha : l ^^ c.invertSignal with
  | false =>
    rw [edgeSev_append ha]
    by_cases hsplit : gap p.W ts lr < p.tSplit <;> simp [hsplit]
  | true =>
    by_cases hsync : gap p.W ts lr > p.tSync
    · simp [edgeSev_finalize ha hsync, hsync]
    · by_cases hglitch : gap p.W ts lr < p.tGlitch
      · simp [edgeSev_glitch ha hsync hglitch, hsync, hglitch]
      · simp [edgeSev_second ha hsync hglitch, hsync, hglitch]

/-- Settles O21: `edgeSev_shift`, and the gap on either side of a wrap. -/
theorem classificationSurvivesClockWrap : Obligations.ClassificationSurvivesClockWrap := by
  unfold Obligations.ClassificationSurvivesClockWrap
  intro p c lr l ts k
  exact ⟨edgeSev_shift p c lr l ts k, fun hle hts => gap_of_le p.W ts lr hle (Nat.sub_lt_of_lt hts),
    gap_of_lt p.W ts lr⟩

end Sys2Proof.Machine

/-! ## APPEND, GLITCH and SECOND by themselves

R120 to R126: what one event of the bit accumulator does to each register. -/

namespace Sys2Proof.Machine

/-- A slot read after the slot write of an APPEND, the mode as a condition (R121). -/
theorem slot_writeSlot_ite (m : FrameWrite) (f : FrameWord) (p : Nat) (v : Bool) {q : Nat} (hq : q < 64) :
    slot (writeSlot m f p v) q =
      if q = p then (if m = .assign then v else (slot f q || v)) else slot f q := by
  rw [slot_writeSlot m f p q v hq]
  cases m <;> rfl

section
variable (g : Seg) (p : Position)

/-- `accNext` with the position compared as the register holds it: the start slot, the rest of the segment, and
elsewhere (R122). -/
theorem accNext_toNat (v a : Bool) :
    accNext g p.toNat v a =
      if p = BitVec.ofNat 6 (segStart g) then v
      else if BitVec.ofNat 6 (segStart g + 1) ≤ p ∧ p ≤ BitVec.ofNat 6 (segEnd g - 1) then (a ^^ v)
      else a := by
  have hstart : p = BitVec.ofNat 6 (segStart g) ↔ p.toNat = segStart g := by
    cases g <;> simp only [segStart] <;> bv_omega
  have hinside : BitVec.ofNat 6 (segStart g + 1) ≤ p ∧ p ≤ BitVec.ofNat 6 (segEnd g - 1) ↔
      segStart g < p.toNat ∧ p.toNat < segEnd g := by
    cases g <;> simp only [segStart, segEnd] <;> bv_omega
  simp only [accNext, hstart, hinside]

/-- `capNext` with the position compared as the register holds it (R123). -/
theorem capNext_toNat (a x : Bool) :
    capNext g p.toNat a x = if p = BitVec.ofNat 6 (segEnd g) then a else x := by
  have hend : p = BitVec.ofNat 6 (segEnd g) ↔ p.toNat = segEnd g := by
    cases g <;> simp only [segEnd] <;> bv_omega
  simp only [capNext, hend]

end

section
variable (r : Regs) (c : Cfg) (v : Bool) (ts : Nat)

/-- Past slot 58 steps 1 to 3 of an APPEND write the slot and no parity flag (R122, R123). -/
theorem Regs.appendAt_of_ge {p : Nat} (hp : 59 ≤ p) :
    r.appendAt c p v = { r with frame := writeSlot c.frameWrite r.frame p v } := by
  have hend (g : Seg) : segEnd g < p := by cases g <;> simp only [segEnd] <;> omega
  have hacc (g : Seg) (a : Bool) : accNext g p v a = a := accNext_outside g p v a (.inr (hend g).le)
  have hcap (g : Seg) (a x : Bool) : capNext g p a x = x := capNext_elsewhere g p a x (hend g).ne'
  simp only [Regs.appendAt, Regs.capture, Regs.accumulate, hacc, hcap]

/-- A GLITCH after an APPEND below slot 59 rewinds to the slot just written and undoes nothing else (R125, R128). -/
theorem Regs.glitch_append_of_lt (h : r.pos.toNat < 59) :
    (r.append c v ts).glitch = r.appendAt c r.pos.toNat v := by
  have hsucc : r.pos + 1 ≠ 0 := by bv_omega
  have hpred : r.pos + 1 - 1 = r.pos := by bv_omega
  rw [Regs.append_of_lt r c v ts h, Regs.glitch_of_pos _ hsucc]
  simp only [hpred]
  rfl

end

/-- Settles O26: `Regs.glitch_eq`. -/
theorem glitchEventRewindsPositionOnly : Obligations.GlitchEventRewindsPositionOnly := by
  unfold Obligations.GlitchEventRewindsPositionOnly
  intro ts s
  exact ⟨_, rfl, s.regs.glitch_eq, ⟨rfl, rfl, rfl⟩, rfl⟩

/-- Settles O27: the row's rule is the record with `LAST_RISING` written. -/
theorem secondEventWritesLastRisingOnly : Obligations.SecondEventWritesLastRisingOnly := by
  unfold Obligations.SecondEventWritesLastRisingOnly
  intro ts s
  exact ⟨_, rfl, rfl, ⟨rfl, rfl, rfl⟩, rfl⟩

/-- Settles O23: below slot 59 the step is the slot write and the advance (`Regs.append_of_lt`). -/
theorem appendWritesItsSlot : Obligations.AppendWritesItsSlot := by
  unfold Obligations.AppendWritesItsSlot
  intro v ts s h
  have hlt : s.regs.pos.toNat < 59 := BitVec.lt_def.mp h
  refine ⟨s.afterEvent (s.regs.append s.cfg v ts), rfl, ?_⟩
  rw [State.afterEvent_regs, Regs.append_of_lt _ _ v ts hlt]
  exact ⟨fun q hq => slot_writeSlot_ite _ _ _ v hq, toNat_pos_succ _ hlt, rfl, rfl, rfl, ⟨rfl, rfl, rfl⟩, rfl⟩

/-- Settles O24: `accNext` and `capNext` of each segment at the register's position; GLITCH keeps every parity flag. -/
theorem appendAccumulatesAndCaptures : Obligations.AppendAccumulatesAndCaptures := by
  unfold Obligations.AppendAccumulatesAndCaptures
  intro v ts s
  have hacc (g : Seg) := (s.regs.append_acc s.cfg g v ts).trans (accNext_toNat g _ v _)
  have hcap (g : Seg) := (s.regs.append_cap s.cfg g v ts).trans (capNext_toNat g _ _ _)
  exact ⟨_, rfl, hacc .minute, hacc .hour, hacc .date, hcap .minute, hcap .hour, hcap .date, _, rfl,
    fun g => ⟨s.regs.glitch_acc g, s.regs.glitch_cap g⟩⟩

/-- Settles O25: below slot 59 the step advances; at slot 59 it is the FINALIZE of the registers with the slot written,
whose frame is `f` slot by slot. -/
theorem appendAdvancesOrFinalizes : Obligations.AppendAdvancesOrFinalizes := by
  unfold Obligations.AppendAdvancesOrFinalizes
  intro v ts s f hf
  refine ⟨s.afterEvent (s.regs.append s.cfg v ts), rfl, fun hlt => ?advances, fun h59 => ?finalizes⟩
  case advances =>
    rw [State.afterEvent_regs, Regs.append_of_lt _ _ v ts (BitVec.lt_def.mp hlt)]
  case finalizes =>
    have hp : s.regs.pos.toNat = 59 := congrArg BitVec.toNat h59
    have hframe : writeSlot s.cfg.frameWrite s.regs.frame 59 v = f :=
      frame_ext _ _ fun q hq => (slot_writeSlot_ite _ _ _ v hq).trans (hf q hq).symm
    have hregs : s.regs.append s.cfg v ts = { s.regs with frame := f }.finalize s.cfg ts := by
      rw [Regs.append_of_ge _ _ v ts hp.ge, hp, Regs.appendAt_of_ge _ _ v (Nat.le_refl 59), hframe]
    rw [State.afterEvent_regs, hregs]
    exact ⟨rfl, rfl, ⟨rfl, rfl, rfl⟩, rfl, _, rfl, rfl⟩

/-- Settles O52: the two writes land in the same slot (`Regs.glitch_append_of_lt`), and each is XORed in. -/
theorem rewrittenSlotTable : Obligations.RewrittenSlotTable := by
  unfold Obligations.RewrittenSlotTable
  intro c g v1 v2 t1 t2 r hstart hend hslot
  have hp : r.pos.toNat < 59 := by cases g <;> simp only [segEnd] at hend <;> omega
  have hq : r.pos.toNat < 64 := r.pos.isLt
  have hsecond : (r.append c v1 t1).glitch.append c v2 t2 =
      { (r.appendAt c r.pos.toNat v1).appendAt c r.pos.toNat v2 with pos := r.pos + 1 } := by
    rw [Regs.glitch_append_of_lt r c v1 t1 hp]
    exact Regs.append_of_lt _ c v2 t2 hp
  rw [hsecond]
  refine ⟨?slot, ?acc, rfl⟩
  case slot =>
    show slot (writeSlot _ (writeSlot _ r.frame _ v1) _ v2) _ = _
    rw [slot_writeSlot_ite _ _ _ _ hq, slot_writeSlot_ite _ _ _ _ hq, hslot]
    cases c.frameWrite <;> simp
  case acc =>
    calc ((r.appendAt c r.pos.toNat v1).appendAt c r.pos.toNat v2).acc g
        = accNext g r.pos.toNat v2 (accNext g r.pos.toNat v1 (r.acc g)) := by simp only [Regs.appendAt_acc]
      _ = (r.acc g ^^ (v1 ^^ v2)) := by
        rw [accNext_inside g _ _ _ hstart hend, accNext_inside g _ _ _ hstart hend, Bool.xor_assoc]

end Sys2Proof.Machine

/-! ## The accumulators along a run of events

R127 and R129: from `POS = 0` a segment is entered only by an APPEND at its start slot, which sets its accumulator
anew. So what is said of the accumulators of the segments entered holds along every run. -/

namespace Sys2Proof.Machine

/-- A segment's accumulator after the event `e` at position `p` (R122). -/
def accStep (g : Seg) (p : Nat) (e : Sev) (a : Bool) : Bool :=
  match e with
  | .append v => accNext g p v a
  | .second => a
  | .glitch => a
  | .finalize => a

section
variable (r : Regs) (c : Cfg) (g : Seg) (e : Sev) (ts : Nat)

/-- Each accumulator after an event: only an APPEND moves it (R122, R125, R126). -/
theorem Regs.perform_acc : (r.perform c e ts).acc g = accStep g r.pos.toNat e (r.acc g) := by
  cases e with
  | second => cases g <;> rfl
  | append v => exact r.append_acc c g v ts
  | glitch => exact r.glitch_acc g
  | finalize => cases g <;> simp [Regs.perform, accStep]

/-- An APPEND moves the position on by at most one slot (R124). -/
theorem Regs.toNat_append_pos_le (v : Bool) : (r.append c v ts).pos.toNat ≤ r.pos.toNat + 1 := by
  obtain h | h := Nat.lt_or_ge r.pos.toNat 59
  · rw [Regs.append_of_lt r c v ts h]
    exact (toNat_pos_succ _ h).le
  · rw [Regs.append_of_ge r c v ts h]
    exact Nat.zero_le _

variable {r c g e ts}

/-- Once an event has left the position past a segment's start slot, the segment's accumulator does not depend on what
it held before the segment was entered (R122, R129). -/
theorem accStep_congr_of_entered {a a' : Bool} (hentered : segStart g < (r.perform c e ts).pos.toNat)
    (h : segStart g < r.pos.toNat → a = a') : accStep g r.pos.toNat e a = accStep g r.pos.toNat e a' := by
  cases e with
  | second => exact h hentered
  | glitch => exact h (hentered.trans_le ((Regs.toNat_glitch_pos r).trans_le (Nat.sub_le _ _)))
  | finalize => exact absurd hentered (Nat.not_lt_zero _)
  | append v =>
    have hle : segStart g ≤ r.pos.toNat := Nat.le_of_lt_succ (hentered.trans_le (r.toNat_append_pos_le c ts v))
    obtain hstart | hlt := hle.eq_or_lt
    · simp only [accStep, ← hstart, accNext_at_start]
    · rw [h hlt]

end

/-- The XOR of a list, one bit on. -/
theorem xorAll_concat (bs : List Bool) (b : Bool) : xorAll (bs ++ [b]) = (xorAll bs ^^ b) := by
  simp [xorAll]

/-- The log of a segment and its accumulator take an event alike (R122, R127). -/
theorem accStep_xorAll (g : Seg) (p : Nat) (e : Sev) (log : List Bool) :
    accStep g p e (xorAll log) = xorAll (segLog g p e log) := by
  cases e with
  | second | glitch | finalize => rfl
  | append v =>
    simp only [accStep, accNext, segLog]
    split_ifs
    · simp [xorAll]
    · rw [xorAll_concat]
    · rfl

/-- Along a run, the accumulator of a segment entered is the XOR of the segment's log (R127). -/
theorem Regs.run_acc_eq_xorAll {c : Cfg} {g : Seg} {es : List (Sev × Nat)} {r : Regs} {log : List Bool}
    (h : segStart g < r.pos.toNat → r.acc g = xorAll log) (hentered : segStart g < (Regs.run c es r).pos.toNat) :
    (Regs.run c es r).acc g = xorAll (Regs.logAfter c g es r log) := by
  induction es generalizing r log with
  | nil => exact h hentered
  | cons event es ih =>
    obtain ⟨e, ts⟩ := event
    refine ih (fun hin => ?_) hentered
    rw [Regs.perform_acc, accStep_congr_of_entered hin h, accStep_xorAll]

/-- Settles O49: at its end slot a segment is entered, so the accumulator captured is the XOR of the log. -/
theorem captureIsXorOfSegmentAppends : Obligations.CaptureIsXorOfSegmentAppends := by
  unfold Obligations.CaptureIsXorOfSegmentAppends
  intro c g es r v ts hpos hend
  have hstart : segStart g < r.pos.toNat → r.acc g = xorAll [] := fun h => by simp [hpos] at h
  rw [Regs.append_cap, hend, capNext_at_end]
  exact Regs.run_acc_eq_xorAll hstart (hend ▸ segStart_lt_segEnd g)

section
variable (r : Regs) (c : Cfg) (a b d : Bool)

/-- FINALIZE reads and writes no accumulator (R140). -/
theorem Regs.finalize_withAccs (now : Nat) :
    (r.withAccs a b d).finalize c now = (r.finalize c now).withAccs a b d := by
  rw [Regs.finalize_eq, Regs.finalize_eq]
  rfl

variable {r a b d}

/-- Steps 1 to 3 of an APPEND read an accumulator into another register at its segment's end slot alone (R123). -/
theorem Regs.appendAt_withAccs {p : Nat} (v : Bool) (h : ∀ g, p = segEnd g → (r.withAccs a b d).acc g = r.acc g) :
    ((r.withAccs a b d).appendAt c p v).withAccs false false false =
      (r.appendAt c p v).withAccs false false false := by
  have hcap (g : Seg) (x : Bool) : capNext g p ((r.withAccs a b d).acc g) x = capNext g p (r.acc g) x := by
    by_cases hp : p = segEnd g
    · rw [h g hp]
    · rw [capNext_elsewhere g p _ _ hp, capNext_elsewhere g p _ _ hp]
  have hmin : capNext .minute p a r.capMin = capNext .minute p r.accMin r.capMin := hcap .minute _
  have hhour : capNext .hour p b r.capHour = capNext .hour p r.accHour r.capHour := hcap .hour _
  have hdate : capNext .date p d r.capDate = capNext .date p r.accDate r.capDate := hcap .date _
  simp only [Regs.appendAt, Regs.capture, Regs.accumulate, Regs.withAccs, hmin, hhour, hdate]

/-- An event's effect on every register but the accumulators, read off registers whose accumulators differ (R129). -/
theorem Regs.perform_withAccs (e : Sev) (ts : Nat)
    (h : ∀ g, r.pos.toNat = segEnd g → (r.withAccs a b d).acc g = r.acc g) :
    ((r.withAccs a b d).perform c e ts).withAccs false false false =
      (r.perform c e ts).withAccs false false false := by
  cases e with
  | second => rfl
  | glitch =>
    show ((r.withAccs a b d).glitch).withAccs false false false = r.glitch.withAccs false false false
    rw [Regs.glitch_eq, Regs.glitch_eq]
    rfl
  | finalize =>
    show ({ (r.withAccs a b d).finalize c ts with lastRising := ts } : Regs).withAccs false false false = _
    rw [Regs.finalize_withAccs]
    rfl
  | append v =>
    have hat := Regs.appendAt_withAccs c v h
    show ((r.withAccs a b d).append c v ts).withAccs false false false = (r.append c v ts).withAccs false false false
    obtain hlt | hge := Nat.lt_or_ge r.pos.toNat 59
    · rw [Regs.append_of_lt r c v ts hlt, Regs.append_of_lt (r.withAccs a b d) c v ts hlt]
      exact congrArg (fun x : Regs => { x with pos := r.pos + 1 }) hat
    · rw [Regs.append_of_ge r c v ts hge, Regs.append_of_ge (r.withAccs a b d) c v ts hge,
        ← Regs.finalize_withAccs, ← Regs.finalize_withAccs]
      exact congrArg (fun x : Regs => x.finalize c ts) hat

end

/-- Registers that differ in the accumulators of segments not entered, at most (R129). -/
structure Regs.AgreeButStale (r r' : Regs) : Prop where
  others : r'.withAccs false false false = r.withAccs false false false
  acc : ∀ g, segStart g < r.pos.toNat → r'.acc g = r.acc g

/-- Every event keeps the agreement: it enters a segment by setting its accumulator, and captures only where a segment
is entered (R122, R123). -/
theorem Regs.AgreeButStale.perform {r r' : Regs} (h : r.AgreeButStale r') (c : Cfg) (e : Sev) (ts : Nat) :
    (r.perform c e ts).AgreeButStale (r'.perform c e ts) := by
  obtain ⟨hothers, hacc⟩ := h
  have hpos : r'.pos = r.pos := congrArg (·.pos) hothers
  obtain ⟨a, b, d, rfl⟩ : ∃ a b d, r' = r.withAccs a b d :=
    ⟨r'.accMin, r'.accHour, r'.accDate, congrArg (·.withAccs r'.accMin r'.accHour r'.accDate) hothers⟩
  refine ⟨Regs.perform_withAccs c e ts fun g hend => hacc g (hend ▸ segStart_lt_segEnd g), fun g hentered => ?_⟩
  rw [Regs.perform_acc, Regs.perform_acc, hpos]
  exact accStep_congr_of_entered hentered (hacc g)

/-- So does every run of events (R129). -/
theorem Regs.AgreeButStale.run {r r' : Regs} (h : r.AgreeButStale r') (c : Cfg) (es : List (Sev × Nat)) :
    (Regs.run c es r).AgreeButStale (Regs.run c es r') := by
  induction es generalizing r r' with
  | nil => exact h
  | cons event es ih => exact ih (h.perform c event.1 event.2)

/-- Settles O48: at `POS = 0` no segment is entered, and a run keeps `Regs.AgreeButStale`. -/
theorem staleAccumulatorsNeverReachACapture : Obligations.StaleAccumulatorsNeverReachACapture := by
  unfold Obligations.StaleAccumulatorsNeverReachACapture
  intro c es r a b d hpos
  have hstart : r.AgreeButStale (r.withAccs a b d) := ⟨rfl, fun g h => by simp [hpos] at h⟩
  exact (hstart.run c es).others

end Sys2Proof.Machine

/-! ## A telegram with one slot flipped -/

namespace Sys2Proof.Machine

/-- The parity validation, as one equality a segment (R143). -/
theorem parityOk_iff_forall (r : Regs) : r.parityOk = true ↔ ∀ g, r.cap g = slot r.frame (segEnd g) := by
  rw [parityOk_iff]
  refine ⟨fun ⟨hmin, hhour, hdate⟩ g => ?_, fun h => ⟨h .minute, h .hour, h .date⟩⟩
  cases g with
  | minute => exact hmin
  | hour => exact hhour
  | date => exact hdate

/-- A frame received whole passes exactly when each parity slot is the XOR of its segment (R143, R149). -/
theorem Regs.HasReceived.parityOk_iff_segXor {f : FrameWord} {r : Regs} (h : r.HasReceived f 59) :
    r.parityOk = true ↔ ∀ g, segXor f g = slot f (segEnd g) := by
  rw [parityOk_iff_forall]
  refine forall_congr' fun g => ?_
  have hg : segEnd g < 59 := by cases g <;> decide
  rw [h.cap g hg, h.frame _ (by omega), decide_eq_true hg, Bool.true_and]

/-- Appends that end at or before slot 59 finalize nothing, so they keep the decoded time (R120, R124). -/
theorem Regs.appendAll_time_of_le (c : Cfg) (ts : Nat) {bs : List Bool} {r : Regs}
    (h : r.pos.toNat + bs.length ≤ 59) : (r.appendAll c ts bs).time = r.time := by
  induction bs generalizing r with
  | nil => rfl
  | cons b bs ih =>
    rw [List.length_cons] at h
    have hp : r.pos.toNat < 59 := by omega
    have hpos := r.toNat_append_pos_le c ts b
    rw [Regs.appendAll_cons, ih (by omega), Regs.append_of_lt r c b ts hp]
    rfl

/-- One bit a slot. -/
theorem length_frameBits (f : FrameWord) (n : Nat) : (frameBits f n).length = n := by simp [frameBits]

/-- Appending the first 59 slots of a frame to a cleared one receives them (R51, R120 to R124). -/
theorem Regs.HasReceived.appendAll_frameBits {r : Regs} (f : FrameWord) (c : Cfg) (ts : Nat) (hp : r.pos = 0)
    (hf : r.frame = 0) : (r.appendAll c ts (frameBits f 59)).HasReceived f 59 := by
  have hlen := length_frameBits f 59
  have h := (Regs.HasReceived.of_cleared f hp hf).appendAll c ts (bs := frameBits f 59) (by omega) fun k hk => by
    simp [frameBits, hlen ▸ hk]
  rwa [hlen, Nat.zero_add] at h

section
variable (f : FrameWord) (b : Nat)

/-- Flipping slot `b` flips what is read there and nowhere else (R51). -/
theorem slot_flip {q : Nat} (hq : q < 64) : slot (f ^^^ (1#64 <<< b)) q = (slot f q ^^ decide (q = b)) := by
  have hbit : (1#64 <<< b).getLsbD q = decide (q = b) := by
    have hat : b ≤ q ∧ q - b = 0 ↔ q = b := by omega
    rw [Bool.eq_iff_iff]
    simpa [hq] using hat
  rw [slot, BitVec.getLsbD_xor, hbit, slot]

/-- The XOR of consecutive slots flips with any one of them. -/
theorem slotsXor_flip {o n : Nat} (hn : o + n ≤ 64) :
    slotsXor (f ^^^ (1#64 <<< b)) o n = (slotsXor f o n ^^ decide (o ≤ b ∧ b < o + n)) := by
  induction n with
  | zero =>
    have hnone : ¬ (o ≤ b ∧ b < o + 0) := by omega
    simp only [slotsXor, List.range_zero, List.foldl_nil, decide_eq_false hnone, Bool.xor_false]
  | succ n ih =>
    rw [slotsXor_succ, slotsXor_succ, ih (by omega), slot_flip f b (by omega)]
    by_cases hb : o + n = b
    · have hbefore : ¬ (o ≤ b ∧ b < o + n) := by omega
      have hafter : o ≤ b ∧ b < o + (n + 1) := by omega
      rw [decide_eq_true hb, decide_eq_false hbefore, decide_eq_true hafter, Bool.xor_false, Bool.xor_assoc]
    · have hsame : (o ≤ b ∧ b < o + n) ↔ (o ≤ b ∧ b < o + (n + 1)) := by omega
      rw [decide_eq_false hb, Bool.xor_false, decide_eq_decide.mpr hsame, Bool.xor_right_comm]

/-- Flipping one slot of a telegram leaves the parity code of a segment right exactly when the slot is neither in the
segment nor its parity slot (R84, R127). -/
theorem segXor_telegram_flip_iff (u : BitVec 21) (t : DecodedTime) (g : Seg) :
    segXor (telegram u t ^^^ (1#64 <<< b)) g = slot (telegram u t ^^^ (1#64 <<< b)) (segEnd g) ↔
      ¬ (segStart g ≤ b ∧ b ≤ segEnd g) := by
  have hlt := segStart_lt_segEnd g
  have hend : segEnd g < 64 := by cases g <;> decide
  rw [segXor_eq_slotsXor, slotsXor_flip _ b (by omega), slot_flip _ b hend, slot_telegram_segEnd, segXor_eq_slotsXor,
    Bool.xor_right_inj, decide_eq_decide]
  omega

end

/-- Every slot from 21 to 58 is in a segment or is its parity slot (R80, R84). -/
theorem exists_seg_of_covered {b : Nat} (h21 : 21 ≤ b) (h58 : b ≤ 58) : ∃ g, segStart g ≤ b ∧ b ≤ segEnd g := by
  obtain h | h | h : b ≤ 28 ∨ 29 ≤ b ∧ b ≤ 35 ∨ 36 ≤ b := by omega
  · exact ⟨.minute, h21, h⟩
  · exact ⟨.hour, h⟩
  · exact ⟨.date, h, h58⟩

/-- Settles O59: the parity validation of the flipped telegram fails exactly when the slot is covered by a segment
(`segXor_telegram_flip_iff`), and no field reads a slot before 21. -/
theorem singleBitFlipIsRejected : Obligations.SingleBitFlipIsRejected := by
  unfold Obligations.SingleBitFlipIsRejected
  intro c r unused t b ts now hp hf ht
  have hrec := Regs.HasReceived.appendAll_frameBits (telegram unused t ^^^ (1#64 <<< b)) c ts hp hf
  have htime : (r.appendAll c ts (frameBits (telegram unused t ^^^ (1#64 <<< b)) 59)).time = r.time :=
    Regs.appendAll_time_of_le c ts (by rw [length_frameBits, hp]; rfl)
  generalize r.appendAll c ts (frameBits (telegram unused t ^^^ (1#64 <<< b)) 59) = r' at hrec htime ⊢
  refine ⟨fun h21 h58 => ?rejected, fun h20 => ?ignored⟩
  case rejected =>
    obtain ⟨g, hg⟩ := exists_seg_of_covered h21 h58
    have hfail : ¬ r'.parityOk = true := fun hok =>
      (segXor_telegram_flip_iff b unused t g).mp (hrec.parityOk_iff_segXor.mp hok g) hg
    rw [Regs.finalize_time, if_neg hfail, htime]
  case ignored =>
    have hpass : r'.parityOk = true := hrec.parityOk_iff_segXor.mpr fun g =>
      (segXor_telegram_flip_iff b unused t g).mpr fun ⟨hstart, _⟩ => by
        cases g <;> simp only [segStart] at hstart <;> omega
    have hfields : decodeFrame r'.frame = decodeFrame (telegram unused t) := decodeFrame_congr fun q h1 h2 => by
      have hq : q < 59 := by omega
      have hne : q ≠ b := by omega
      rw [hrec.frame q (by omega), slot_flip _ b (by omega), decide_eq_true hq, decide_eq_false hne, Bool.true_and,
        Bool.xor_false]
    rw [Regs.finalize_time, if_pos hpass, hfields]
    exact decodeFrame_frameWith _ _ _ _ ht

end Sys2Proof.Machine

/-! ## The frame finalizer

R140 to R151: what FINALIZE publishes and clears, when a frame passes the validation, and where `LAST_FINALIZE` comes
from. -/

namespace Sys2Proof.Machine

/-- What SEV_FINALIZE leaves (R140). -/
theorem exec_sevFinalize (now : Nat) (s : State) :
    exec (.sevFinalize now) s = .next (s.afterEvent (s.regs.finalize s.cfg now)) := rfl

section
variable {r : Regs} (c : Cfg) (now : Nat)

/-- A FINALIZE that passes the validation publishes, and refreshes under both policies (R144, R146). -/
theorem Regs.finalize_of_parityOk (h : r.parityOk = true) :
    r.finalize c now = { r with frame := 0, pos := 0, time := decodeFrame r.frame, lastFinalize := now } := by
  rw [Regs.finalize_eq, if_pos h, if_pos (.inr h)]

/-- A FINALIZE that fails it discards the candidate, and refreshes under ANY_FINALIZE alone (R145, R146). -/
theorem Regs.finalize_of_not_parityOk (h : ¬ r.parityOk = true) :
    r.finalize c now =
      { r with
        frame := 0, pos := 0
        lastFinalize := if c.refreshPolicy = .anyFinalize then now else r.lastFinalize } := by
  simp only [Regs.finalize_eq, if_neg h, or_iff_left h]

end

/-- Settles O28: three matching captures pass the validation (`parityOk_iff`), so the FINALIZE publishes. -/
theorem finalizePublishesWhenParityMatches : Obligations.FinalizePublishesWhenParityMatches := by
  unfold Obligations.FinalizePublishesWhenParityMatches
  intro now s hmin hhour hdate
  have hok : s.regs.parityOk = true := (parityOk_iff _).mpr ⟨hmin, hhour, hdate⟩
  exact ⟨_, exec_sevFinalize now s, Regs.finalize_of_parityOk s.cfg now hok, ⟨rfl, rfl, rfl⟩, rfl⟩

/-- Settles O29: one capture that differs fails the validation (`parityOk_iff`), so the FINALIZE discards. -/
theorem finalizeDiscardsOnMismatch : Obligations.FinalizeDiscardsOnMismatch := by
  unfold Obligations.FinalizeDiscardsOnMismatch
  intro now s hdiffer
  have hfail : ¬ s.regs.parityOk = true := fun hok => by
    obtain ⟨hmin, hhour, hdate⟩ := (parityOk_iff _).mp hok
    obtain h | h | h := hdiffer
    · exact h hmin
    · exact h hhour
    · exact h hdate
  exact ⟨_, exec_sevFinalize now s, Regs.finalize_of_not_parityOk s.cfg now hfail, ⟨rfl, rfl, rfl⟩, rfl⟩

/-- Settles O30: `Regs.finalize_lastFinalize` under each policy, with the validation written out (`parityOk_iff`). -/
theorem everyFinalizeClearsAndRefreshes : Obligations.EveryFinalizeClearsAndRefreshes := by
  unfold Obligations.EveryFinalizeClearsAndRefreshes
  intro now s
  have flags_kept (g : Seg) := And.intro (s.regs.finalize_acc s.cfg g now) (s.regs.finalize_cap s.cfg g now)
  refine ⟨_, exec_sevFinalize now s, rfl, rfl, flags_kept, fun hany => ?any, fun hsucc => ?success⟩
  case any => rw [State.afterEvent_regs, Regs.finalize_lastFinalize, if_pos (.inl hany)]
  case success =>
    have hrefresh : s.cfg.refreshPolicy = .anyFinalize ∨ s.regs.parityOk = true ↔ s.regs.parityOk = true := by
      simp [hsucc]
    rw [State.afterEvent_regs, Regs.finalize_lastFinalize]
    exact if_congr (hrefresh.trans (parityOk_iff _)) rfl rfl

/-- Settles O31: the value of the conversion (`toNat_bcd2dec`) is the byte less six times its high nibble. -/
theorem bcdConversionIsExact : Obligations.BcdConversionIsExact := by
  unfold Obligations.BcdConversionIsExact
  intro b
  have hvalue := toNat_bcd2dec b
  exact ⟨by omega, by omega, hvalue, fun h => bcd2dec_of_lt b (BitVec.lt_def.mp h)⟩

/-- Settles O32: the value of the code (`toNat_bcdEncode`), read back as that of the conversion, and bounded for each
field's largest value. -/
theorem bcdRoundTrip : Obligations.BcdRoundTrip := by
  unfold Obligations.BcdRoundTrip
  intro d h99
  have hcode := toNat_bcdEncode d (BitVec.le_def.mp h99)
  simp only [BitVec.le_def, BitVec.lt_def, BitVec.reduceToNat, hcode]
  refine ⟨BitVec.eq_of_toNat_eq ?_, by omega, by omega, by omega⟩
  rw [toNat_bcd2dec, hcode]
  omega

/-- Settles O33: `decodeFrame_inRange`, and `SECOND` is published as 0. -/
theorem publishedValuesInRange : Obligations.PublishedValuesInRange := by
  unfold Obligations.PublishedValuesInRange
  exact fun f => ⟨rfl, decodeFrame_inRange f⟩

/-- Every field of the empty frame is 0 (R149). -/
theorem decodeFrame_zero : decodeFrame 0 = DecodedTime.zero := by decide

/-- Without a decoded day SYNCED is false at every time (R161). -/
theorem isSynced_of_day_zero {r : Regs} (p : Params) (now : Nat) (h : r.time.day = 0) :
    isSynced p r now = false := by
  simp [isSynced, h]

/-- An empty frame passes the validation exactly when all three captures are 0 (R149). -/
theorem parityOk_iff_of_frame_zero {r : Regs} (h : r.frame = 0) :
    r.parityOk = true ↔ r.capMin = false ∧ r.capHour = false ∧ r.capDate = false := by
  simp [parityOk_iff, h]

/-- Settles O53: the empty frame passes exactly when the captures are 0 (`parityOk_iff_of_frame_zero`), and what it
publishes has `DAY` 0. -/
theorem emptyFrameZeroesOrKeepsTime : Obligations.EmptyFrameZeroesOrKeepsTime := by
  unfold Obligations.EmptyFrameZeroesOrKeepsTime
  intro r c now hframe
  have hpass := parityOk_iff_of_frame_zero hframe
  refine ⟨fun hmin hhour hdate => ?zeroes, fun hcap => ?keeps⟩
  case zeroes =>
    have htime : (r.finalize c now).time = DecodedTime.zero := by
      rw [Regs.finalize_time, if_pos (hpass.mpr ⟨hmin, hhour, hdate⟩), hframe, decodeFrame_zero]
    exact ⟨htime, fun p later => isSynced_of_day_zero p later (congrArg DecodedTime.day htime)⟩
  case keeps =>
    have hfail : ¬ r.parityOk = true := fun hok => by
      obtain ⟨hmin, hhour, hdate⟩ := hpass.mp hok
      simp [hmin, hhour, hdate] at hcap
    rw [Regs.finalize_time, if_neg hfail]

/-- Settles O51: after the appends (`glitchFreeFrameIsReceived`) a reached segment has its XOR captured, and an
unreached one keeps its capture and has a parity slot of 0. -/
theorem glitchFreeFramePassesIff : Obligations.GlitchFreeFramePassesIff := by
  unfold Obligations.GlitchFreeFramePassesIff
  intro c ts bs r hp hf hlen
  obtain ⟨-, hslot, hreached, hunreached⟩ := glitchFreeFrameIsReceived c ts bs r hp hf hlen
  rw [parityOk_iff_forall]
  refine forall_congr' fun g => ?_
  obtain hlt | hge := Nat.lt_or_ge (segEnd g) bs.length
  · rw [hreached g hlt]
    exact ⟨fun h => ⟨fun _ => h.symm, fun hge => absurd hlt hge.not_gt⟩, fun ⟨hxor, _⟩ => (hxor hlt).symm⟩
  · have hend : segEnd g < 64 := by cases g <;> decide
    rw [hunreached g hge, hslot _ hend, List.getD_eq_default _ _ hge]
    exact ⟨fun h => ⟨fun hlt => absurd hlt hge.not_gt, fun _ => h⟩, fun ⟨_, hstale⟩ => hstale hge⟩

/-- A FINALIZE at `ts` took place from `r` to `r'` and refreshed `LAST_FINALIZE`: under SUCCESS_ONLY it published
(R146 to R148). -/
def Regs.Refreshed (c : Cfg) (ts : Nat) (r r' : Regs) : Prop :=
  r'.lastFinalize = ts ∧ r'.frame = 0 ∧ r'.pos = 0 ∧ (c.refreshPolicy = .successOnly → r.Published r')

/-- The append at slot 59 has no part in what its FINALIZE publishes (R124). -/
theorem Regs.Published.of_appendAt {r r' : Regs} {c : Cfg} {v : Bool} {p : Nat} (hp : 59 ≤ p)
    (h : (r.appendAt c p v).Published r') : r.Published r' := by
  obtain ⟨htime, hok, hcleared⟩ := h
  exact ⟨htime.trans (decodeFrame_appendAt_of_ge r c v hp), (parityOk_appendAt_of_ge r c v hp) ▸ hok, hcleared⟩

section
variable (r : Regs) (c : Cfg) (ts : Nat)

/-- A FINALIZE keeps `LAST_FINALIZE` or refreshes it (R146). -/
theorem Regs.finalize_lastFinalize_cases :
    (r.finalize c ts).lastFinalize = r.lastFinalize ∨ r.Refreshed c ts (r.finalize c ts) := by
  by_cases hok : r.parityOk = true
  · rw [Regs.finalize_of_parityOk c ts hok]
    exact .inr ⟨rfl, rfl, rfl, fun _ => ⟨rfl, hok, rfl, rfl⟩⟩
  · rw [Regs.finalize_of_not_parityOk c ts hok]
    by_cases hany : c.refreshPolicy = .anyFinalize
    · exact .inr ⟨if_pos hany, rfl, rfl, fun hsucc => by simp [hany] at hsucc⟩
    · exact .inl (if_neg hany)

/-- So does an APPEND, by the FINALIZE of an overflow (R124). -/
theorem Regs.append_lastFinalize_cases (v : Bool) :
    (r.append c v ts).lastFinalize = r.lastFinalize ∨ r.Refreshed c ts (r.append c v ts) := by
  obtain h | h := Nat.lt_or_ge r.pos.toNat 59
  · rw [Regs.append_of_lt r c v ts h]
    exact .inl rfl
  · rw [Regs.append_of_ge r c v ts h]
    refine (Regs.finalize_lastFinalize_cases _ c ts).imp_right fun ⟨hlast, hframe, hpos, hpublished⟩ => ?_
    exact ⟨hlast, hframe, hpos, fun hsucc => (hpublished hsucc).of_appendAt h⟩

/-- And so does every semantic event (R100, R148). -/
theorem Regs.perform_lastFinalize_cases (e : Sev) :
    (r.perform c e ts).lastFinalize = r.lastFinalize ∨ r.Refreshed c ts (r.perform c e ts) := by
  cases e with
  | second => exact .inl rfl
  | append v => exact r.append_lastFinalize_cases c ts v
  | glitch => exact .inl r.glitch_lastFinalize
  | finalize => exact r.finalize_lastFinalize_cases c ts

end

/-- The timestamp of a semantic event is the event time of its instruction (R204 item 3). -/
theorem State.Triggers.eventTime_eq {s : State} {i : Instr} {e : Sev} {ts : Nat} (h : s.Triggers i e ts) :
    eventTime i = some ts := by
  cases h <;> rfl

/-- A step that is no reset and changes `LAST_FINALIZE` refreshes it at the event time presented (R148). -/
theorem State.StepEffect.refreshed_of_lastFinalize_ne {s : State} {r : Regs} (h : s.StepEffect r) (hr : ¬ s.resetNext)
    (hne : r.lastFinalize ≠ s.regs.lastFinalize) :
    ∃ i ts, s.Presents i ∧ eventTime i = some ts ∧ s.regs.Refreshed s.cfg ts r := by
  cases h with
  | unchanged => exact absurd rfl hne
  | reset h => exact absurd h hr
  | tick => exact absurd rfl hne
  | @event i e ts hi he =>
    exact ⟨i, ts, hi, he.eventTime_eq, (s.regs.perform_lastFinalize_cases s.cfg ts e).resolve_left hne⟩
  | @finalize now hi => exact ⟨_, now, hi, rfl, (s.regs.finalize_lastFinalize_cases s.cfg now).resolve_left hne⟩

/-- Settles O46: `State.StepEffect.refreshed_of_lastFinalize_ne`. -/
theorem lastFinalizeIsTheFinalizeTime : Obligations.LastFinalizeIsTheFinalizeTime := by
  unfold Obligations.LastFinalizeIsTheFinalizeTime
  intro s t h hr hne
  obtain ⟨i, ts, ⟨x, rest, hs, hi⟩, htime, rfl, hframe, hpos, hpublished⟩ :=
    (step_effect h).refreshed_of_lastFinalize_ne hr hne
  refine ⟨x, rest, i, hs, hi, htime, hframe, hpos, fun hsucc => ?_⟩
  obtain ⟨hdecoded, hok, -⟩ := hpublished hsucc
  exact ⟨hok, hdecoded⟩

end Sys2Proof.Machine

/-! ## The freshness formula of SYNCED -/

namespace Sys2Proof.Machine

/-- As an integer, a gap is the remainder of the difference modulo 2^W (R10). -/
theorem natCast_gap (W a b : Nat) : (gap W a b : Int) = ((a : Int) - (b : Int)) % ((2 ^ W : Nat) : Int) :=
  Int.toNat_of_nonneg (Int.emod_nonneg _ (Int.natCast_ne_zero.mpr (Nat.two_pow_pos W).ne'))

/-- SYNCED asks for a decoded day, a decoded month, and an age of at most `T_FRESH` (R161). -/
theorem isSynced_iff (p : Params) (r : Regs) (now : Nat) :
    isSynced p r now = true ↔ r.time.day ≠ 0 ∧ r.time.month ≠ 0 ∧ gap p.W now r.lastFinalize ≤ p.tFresh := by
  simp only [isSynced, Bool.and_eq_true, bne_iff_ne, decide_eq_true_eq, and_assoc]

/-- Settles O36: the answer is `isSynced` (`isSynced_iff`), with its gap written as an integer remainder. -/
theorem syncedIsTheFreshnessFormula : Obligations.SyncedIsTheFreshnessFormula := by
  unfold Obligations.SyncedIsTheFreshnessFormula
  intro now s
  refine ⟨s.afterQuery (.synced (isSynced s.params s.regs now)), isSynced s.params s.regs now, rfl, rfl, ?_, rfl,
    rfl, rfl, rfl⟩
  rw [isSynced_iff, ← natCast_gap, Int.ofNat_le]

end Sys2Proof.Machine

/-! ## The environment's contract

R180, R182, R204, R212: a step whose input keeps the contract is performed, and what is still to come keeps it from the
configuration the step leaves; so no run under the contract stops. -/

namespace Sys2Proof.Machine

/-- Every instruction that a rule gives a meaning is performed, whatever the state (R180, R182). -/
theorem exec_of_named {i : Instr} (h : i.named = true) (s : State) : ∃ t, exec i s = .next t := by
  cases i with
  | edge | tick | getTime | synced | sevSecond | sevAppend | sevGlitch | sevFinalize => exact ⟨_, rfl⟩
  | reserved011 | reserved1xx | sevReserved001 | sevReserved101 | sevReserved111 => cases h

/-- An instruction writes neither the configuration nor the parameters, and takes no input (R28, R200). -/
theorem exec_sameSetup {i : Instr} {s t : State} (h : exec i s = .next t) : s.SameSetup t := by
  obtain ⟨l, ts, -, rfl⟩ | ⟨ts, -, rfl⟩ | ⟨now, -, rfl⟩ | ⟨now, -, rfl⟩ | ⟨ts, -, rfl⟩ | ⟨v, ts, -, rfl⟩ |
    ⟨ts, -, rfl⟩ | ⟨now, -, rfl⟩ := exec_next_cases h <;> exact ⟨rfl, rfl, rfl⟩

/-- An instruction the environment may present is performed, and leaves the set-up alone. -/
theorem exec_of_wellFormed {W : Nat} {i : Instr} (h : i.wellFormed W = true) (s : State) :
    ∃ t, exec i s = .next t ∧ s.SameSetup t := by
  have hnamed : i.named = true := ((Bool.and_eq_true _ _).mp h).2
  obtain ⟨t, ht⟩ := exec_of_named hnamed s
  exact ⟨t, ht, exec_sameSetup ht⟩

section
variable {W : Nat} {c : Cfg} {x : Stimulus} {rest : List Stimulus}

/-- From a reset on, the contract is about the configuration the reset latches (R200). -/
theorem admissible_cons_of_reset (hr : x.input = .reset) :
    admissible W c (x :: rest) = admissible W x.cfg rest := by
  rw [admissible, if_pos hr]

/-- In a step that is no reset the contract asks for the latched configuration and a well-formed instruction, if any
(R73, R78, R212). -/
theorem admissible_cons_iff_of_not_reset (hr : x.input ≠ .reset) :
    admissible W c (x :: rest) = true ↔
      x.cfg = c ∧ (∀ i, inputInstr W x.input = some i → i.wellFormed W = true) ∧ admissible W c rest = true := by
  rw [admissible, if_neg hr, Bool.and_eq_true, Bool.and_eq_true, decide_eq_true_eq, Option.all_eq_true, and_assoc]

/-- Under the contract the configuration inputs of a step that is no reset are the latched ones (R212). -/
theorem cfg_eq_of_admissible (h : admissible W c (x :: rest) = true) (hr : x.input ≠ .reset) : x.cfg = c :=
  ((admissible_cons_iff_of_not_reset hr).mp h).1

end

/-- A stimulus presented under the contract is performed, and the inputs after it keep the contract from the
configuration it leaves: the latched one for a reset, else the one before. -/
theorem perform_of_admissible {s : State} {x : Stimulus} {rest : List Stimulus}
    (h : admissible s.params.W s.cfg (x :: rest) = true) :
    ∃ u, s.perform x = .next u ∧ u.params = s.params ∧ u.inputs = s.inputs ∧
      admissible s.params.W u.cfg rest = true := by
  by_cases hr : x.input = .reset
  · rw [admissible_cons_of_reset hr] at h
    exact ⟨s.performReset x.cfg, if_pos hr, rfl, rfl, h⟩
  obtain ⟨-, hwf, hrest⟩ := (admissible_cons_iff_of_not_reset hr).mp h
  rw [State.perform, if_neg hr]
  cases hi : inputInstr s.params.W x.input with
  | none => exact ⟨s.performIdle, rfl, rfl, rfl, hrest⟩
  | some i =>
    obtain ⟨u, hu, hcfg, hparams, hinputs⟩ := exec_of_wellFormed (hwf i hi) s
    exact ⟨u, hu, hparams, hinputs, hcfg ▸ hrest⟩

/-- Settles O60: with nothing to present by `step_of_inputs_nil`, else by `perform_of_admissible`: answering the queries
of a step writes the answers alone. -/
theorem admissibleStepKeepsContract : Obligations.AdmissibleStepKeepsContract := by
  unfold Obligations.AdmissibleStepKeepsContract
  intro s h
  cases hs : s.inputs with
  | nil => exact ⟨s.performIdle, step_of_inputs_nil hs, h⟩
  | cons x rest =>
    rw [hs] at h
    obtain ⟨u, hu, hparams, hinputs, hrest⟩ := perform_of_admissible (s := { s with inputs := rest }) h
    refine ⟨_, step_of_perform hs (cfg_eq_of_admissible h) hu, ?_⟩
    rw [State.answering_params, State.answering_cfg, State.answering_inputs, hparams, hinputs]
    exact hrest

/-- A property from which every step goes on, and which every step keeps, is one from which every run goes on. -/
theorem run_of_step_invariant (M : Host.Core) {P : M.State → Prop}
    (hstep : ∀ s, P s → ∃ t, M.step s = .next t ∧ P t) (k : Nat) {s : M.State} (h : P s) :
    ∃ t, M.run k s = .next t ∧ P t := by
  induction k generalizing s with
  | zero => exact ⟨s, rfl, h⟩
  | succ k ih =>
    obtain ⟨u, hu, hPu⟩ := hstep s h
    rw [Host.Core.run, hu]
    exact ih hPu

/-- Settles O57: every step goes on and keeps the contract (`admissibleStepKeepsContract`), so every run goes on
(`run_of_step_invariant`). -/
theorem admissibleRunsNeverStop : Obligations.AdmissibleRunsNeverStop := by
  unfold Obligations.AdmissibleRunsNeverStop
  intro k s h
  obtain ⟨t, ht, -⟩ := run_of_step_invariant core admissibleStepKeepsContract k h
  exact ⟨t, ht⟩

end Sys2Proof.Machine

/-! ## Reset

R200, R203, R212: what a reset step leaves, what every other step holds, and the first rising edge after a reset. -/

namespace Sys2Proof.Machine

/-- A reset step leaves what `State.performReset` does, with the queries beside it answered (R200). -/
theorem step_of_reset {s : State} {x : Stimulus} {rest : List Stimulus} (hs : s.inputs = x :: rest)
    (hr : x.input = .reset) :
    step s = .next ({ s with inputs := rest }.answering ({ s with inputs := rest }.performReset x.cfg) x.queries) :=
  step_of_perform hs (fun hn => absurd hr hn) (if_pos hr)

/-- What is presented in a step that is no reset leaves the latched configuration alone (R28, R200). -/
theorem perform_cfg_of_not_reset {s t : State} {x : Stimulus} (hr : x.input ≠ .reset) (h : s.perform x = .next t) :
    t.cfg = s.cfg := by
  obtain ⟨hx, -⟩ | ⟨-, -, rfl⟩ | ⟨-, i, -, hi⟩ := perform_next_cases h
  · exact absurd hx hr
  · rfl
  · obtain ⟨hcfg, -⟩ := exec_sameSetup hi
    exact hcfg

/-- A step that is no reset holds the latched configuration (R28, R200). -/
theorem step_cfg_of_not_resetNext {s t : State} (hr : ¬ s.resetNext) (h : step s = .next t) : t.cfg = s.cfg := by
  obtain ⟨-, rfl⟩ | ⟨x, rest, u, hs, -, rfl, hu⟩ := step_next_cases h
  · rfl
  · have hx : x.input ≠ .reset := fun hx => hr ⟨x, rest, hs, hx⟩
    rw [State.answering_cfg, perform_cfg_of_not_reset hx hu]

/-- Settles O12: `step_of_reset`, and `step_cfg_of_not_resetNext`. -/
theorem resetStepClearsEveryRegister : Obligations.ResetStepClearsEveryRegister := by
  unfold Obligations.ResetStepClearsEveryRegister
  refine ⟨fun s c qs rest hs => ⟨_, step_of_reset hs rfl, ?_⟩, fun s t => step_cfg_of_not_resetNext⟩
  simp [Regs.reset, DecodedTime.zero]

/-- Settles O15: the test of the configuration inputs comes before anything is performed. -/
theorem changedConfigurationIsRefused : Obligations.ChangedConfigurationIsRefused := by
  unfold Obligations.ChangedConfigurationIsRefused
  intro s x rest hs hr hc
  rw [step, hs]
  exact if_pos ⟨hr, hc⟩

/-- Settles O43: `Regs.inv_reset`, at the default width. -/
theorem resetMeetsInv : Obligations.ResetMeetsInv := Regs.inv_reset

/-- A FINALIZE right after a reset shows in `LAST_FINALIZE` alone: the empty frame passes the validation and publishes
the zeroes that stand there (R149, R203). -/
theorem Regs.finalize_reset (c : Cfg) (now : Nat) :
    Regs.reset.finalize c now = { Regs.reset with lastFinalize := now } := by
  have hok : Regs.reset.parityOk = true := (parityOk_iff_of_frame_zero rfl).mpr ⟨rfl, rfl, rfl⟩
  rw [Regs.finalize_of_parityOk c now hok]
  show { Regs.reset with time := decodeFrame 0, lastFinalize := now } = _
  rw [decodeFrame_zero]
  rfl

/-- Settles O55: the gap since `LAST_RISING` = 0 is the timestamp itself, and each of R100's cases is performed on the
reset registers. -/
theorem firstRisingEdgeAfterReset : Obligations.FirstRisingEdgeAfterReset := by
  unfold Obligations.FirstRisingEdgeAfterReset
  intro ts hts
  have hgap : gap State.reset.params.W ts State.reset.regs.lastRising = ts := gap_of_le _ _ _ (Nat.zero_le ts) hts
  refine ⟨_, rfl, fun hsync => ?sync, fun hglitch => ?glitch, fun hge hle => ?second⟩ <;>
    rw [State.afterEdge_regs]
  case sync =>
    rw [edgeSev_finalize rfl (hgap.symm ▸ hsync)]
    have hregs : Regs.reset.riseSync State.reset.cfg ts = { Regs.reset with lastRising := ts, lastFinalize := ts } := by
      rw [Regs.riseSync, Regs.finalize_reset]
    exact ⟨hregs, fun p later => isSynced_of_day_zero p later (congrArg (·.time.day) hregs)⟩
  case glitch =>
    have hle : ts ≤ 1200 := by omega
    rw [edgeSev_glitch rfl (hgap.symm ▸ Nat.not_lt.mpr hle) (hgap.symm ▸ hglitch)]
    exact Regs.glitch_of_zero Regs.reset rfl
  case second =>
    rw [edgeSev_second rfl (hgap.symm ▸ Nat.not_lt.mpr hle) (hgap.symm ▸ Nat.not_lt.mpr hge)]
    rfl

end Sys2Proof.Machine

/-! ## A failed FINALIZE and SYNCED -/

namespace Sys2Proof.Machine

/-- Settles O54: a failed FINALIZE keeps the decoded time and writes at most `LAST_FINALIZE`
(`Regs.finalize_of_not_parityOk`). -/
theorem failedFinalizeAndFreshness : Obligations.FailedFinalizeAndFreshness := by
  unfold Obligations.FailedFinalizeAndFreshness
  intro r c p now later hfail
  rw [Regs.finalize_of_not_parityOk c now (by simp [hfail])]
  refine ⟨fun hany hday hmonth hage => ?any, fun hsucc => isSynced_congr p later rfl ?success⟩
  case any =>
    rw [isSynced_iff, if_pos hany]
    exact ⟨hday, hmonth, hage⟩
  case success => exact if_neg (by simp [hsucc])

end Sys2Proof.Machine

/-! ## The caller's clock

R204, R205: the registers that hold timestamps follow the event times presented, so under a non-decreasing clock both
stay behind every event still to come. -/

namespace Sys2Proof.Machine

/-- Neither timestamp register is ahead of the time `t`. -/
def Regs.NotAfter (t : Nat) (r : Regs) : Prop := r.lastRising ≤ t ∧ r.lastFinalize ≤ t

theorem Regs.NotAfter.mono {t u : Nat} {r : Regs} (h : r.NotAfter t) (htu : t ≤ u) : r.NotAfter u :=
  ⟨h.1.trans htu, h.2.trans htu⟩

/-- An event at the time `t` stores no other time. -/
theorem Regs.NotAfter.perform {t : Nat} {r : Regs} (h : r.NotAfter t) (c : Cfg) (e : Sev) :
    (r.perform c e t).NotAfter t := by
  obtain ⟨hrise, hfin⟩ := h
  constructor
  · rw [Regs.perform_lastRising]
    split
    · exact le_rfl
    · exact hrise
  · obtain hkept | ⟨hnew, -⟩ := r.perform_lastFinalize_cases c t e
    · exact hkept.trans_le hfin
    · exact hnew.le

/-- Nor does a FINALIZE presented by itself (R140, R146). -/
theorem Regs.NotAfter.finalize {t : Nat} {r : Regs} (h : r.NotAfter t) (c : Cfg) : (r.finalize c t).NotAfter t := by
  obtain ⟨hrise, hfin⟩ := h
  refine ⟨(r.finalize_lastRising c t).trans_le hrise, ?_⟩
  obtain hkept | ⟨hnew, -⟩ := r.finalize_lastFinalize_cases c t
  · exact hkept.trans_le hfin
  · exact hnew.le

/-- No step moves the timestamp registers past the time of the event it is presented with. -/
theorem State.StepEffect.notAfter {s : State} {r : Regs} {t : Nat} (h : s.StepEffect r) (hs : s.regs.NotAfter t)
    (htime : ∀ i ts, s.Presents i → eventTime i = some ts → ts = t) : r.NotAfter t := by
  cases h with
  | unchanged => exact hs
  | reset => exact ⟨Nat.zero_le t, Nat.zero_le t⟩
  | tick => exact hs
  | @event i e ts hi he =>
    obtain rfl := htime i ts hi he.eventTime_eq
    exact hs.perform _ _
  | @finalize now hi =>
    obtain rfl := htime _ now hi rfl
    exact hs.finalize _

/-- What is presented in a step leaves the inputs still to come alone, a reset too (log 5). -/
theorem perform_inputs {s t : State} {x : Stimulus} (h : s.perform x = .next t) : t.inputs = s.inputs := by
  obtain ⟨-, rfl⟩ | ⟨-, -, rfl⟩ | ⟨-, i, -, hi⟩ := perform_next_cases h
  · rfl
  · rfl
  · obtain ⟨-, -, hinputs⟩ := exec_sameSetup hi
    exact hinputs

/-- A step takes the stimulus it performs off the inputs, and no other (log 4, log 5). -/
theorem step_inputs {s t : State} (h : step s = .next t) : t.inputs = s.inputs.tail := by
  obtain ⟨hs, rfl⟩ | ⟨x, rest, u, hs, -, rfl, hu⟩ := step_next_cases h
  · rw [State.performIdle_inputs, hs, List.tail_nil]
  · rw [State.answering_inputs, perform_inputs hu, hs, List.tail_cons]

/-- An event time is the timestamp operand of its instruction (R204 item 3). -/
theorem timestamp_of_eventTime {i : Instr} {ts : Nat} (h : eventTime i = some ts) : i.timestamp = ts := by
  cases i <;> cases h <;> rfl

/-- With a clock that does not decrease from `t` on, the first input is presented at a time `u` from `t` on, from
which the later inputs do not decrease. -/
theorem timesFrom_cons {W t : Nat} {x : Stimulus} {rest : List Stimulus} (h : timesFrom W t (x :: rest) = true) :
    ∃ u, t ≤ u ∧ timesFrom W u rest = true ∧ ∀ ts, (inputInstr W x.input).bind eventTime = some ts → ts = u := by
  rw [timesFrom] at h
  split at h
  next ts hts =>
    rw [Bool.and_eq_true, decide_eq_true_iff] at h
    exact ⟨ts, h.1, h.2, fun ts' hts' => Option.some.inj (hts'.symm.trans hts)⟩
  next hnone => exact ⟨t, le_rfl, h, fun ts hts => by simp [hnone] at hts⟩

/-- Under the caller's clock the next step has a time, that of the event presented if there is one, which no
timestamp register is ahead of and from which the inputs after it do not decrease. -/
theorem State.ClockKept.next_time {s : State} (h : s.ClockKept) :
    ∃ t, s.regs.NotAfter t ∧ timesFrom s.params.W t s.inputs.tail = true ∧
      ∀ i ts, s.Presents i → eventTime i = some ts → ts = t := by
  obtain ⟨t, hrise, hfin, htimes⟩ := h
  have ht : s.regs.NotAfter t := ⟨hrise, hfin⟩
  cases hs : s.inputs with
  | nil => exact ⟨t, ht, rfl, fun i ts ⟨x, rest, hx, _⟩ => by simp [hs] at hx⟩
  | cons x rest =>
    rw [hs] at htimes
    obtain ⟨u, htu, hrest, htime⟩ := timesFrom_cons htimes
    refine ⟨u, ht.mono htu, hrest, fun i ts ⟨y, rest', hy, hi⟩ hts => htime ts ?_⟩
    obtain ⟨rfl, -⟩ := List.cons.inj (hs.symm.trans hy)
    rw [hi]
    exact hts

/-- Settles O56: the time of the step (`State.ClockKept.next_time`) is the clock of the next state, and no gap up to it
wraps (`gap_of_le`). -/
theorem nonDecreasingClockIsKept : Obligations.NonDecreasingClockIsKept := by
  unfold Obligations.NonDecreasingClockIsKept
  intro s h
  obtain ⟨u, hu, hrest, htime⟩ := h.next_time
  refine ⟨fun t ht => ?kept, fun x rest i ts hs hi hts => ?gap⟩
  case kept =>
    obtain ⟨hrise, hfin⟩ := (step_effect ht).notAfter hu htime
    refine ⟨u, hrise, hfin, ?_⟩
    rw [step_params ht, step_inputs ht]
    exact hrest
  case gap =>
    have hp : s.Presents i := ⟨x, rest, hs, hi⟩
    have hfits : ts < 2 ^ s.params.W := timestamp_of_eventTime hts ▸ hp.fits
    have hle : s.regs.lastRising ≤ ts := htime i ts hp hts ▸ hu.1
    exact ⟨gap_of_le _ _ _ hle (Nat.sub_lt_of_lt hfits), hle⟩

end Sys2Proof.Machine
